-- ==== Sys2Proof/Word.lean ====
section
/-! DEFINITION. The block's data widths and its three lines (00_scope.md R11, R12; 20_memory.md R42). -/

namespace Sys2Proof

/-- An 8-bit value: a segment pattern, an operation word or a channel byte (00_scope.md R11). -/
abbrev Byte := BitVec 8

/-- A DigitValue, an unsigned integer 0 to 15 (00_scope.md R11, R17). -/
abbrev Digit := BitVec 4

/-- The opaque token the GPIO service's `acquire` returns (10_state.md R23; assumption 11). -/
abbrev Handle := Nat

/-- The three logical lines, named by role (20_memory.md R42, 10_state.md R25). -/
inductive Line where
  | data
  | clock
  | latch
deriving DecidableEq, Repr, Inhabited

/-- One value for each of the three lines. -/
structure PerLine (α : Type) where
  data : α
  clock : α
  latch : α
deriving DecidableEq, Repr

/-- The value held for one line. -/
def PerLine.get {α : Type} (p : PerLine α) : Line → α
  | .data => p.data
  | .clock => p.clock
  | .latch => p.latch

/-- The same values with the one of line `l` replaced. -/
def PerLine.set {α : Type} (p : PerLine α) (l : Line) (a : α) : PerLine α :=
  match l with
  | .data => { p with data := a }
  | .clock => { p with clock := a }
  | .latch => { p with latch := a }

/-- The same value for all three lines. -/
def PerLine.fill {α : Type} (a : α) : PerLine α := ⟨a, a, a⟩

end Sys2Proof
end

