-- ==== Sys2Proof/Config.lean ====
section
/-! DEFINITION. The parameters a model takes (00_scope.md R10) and the values the spec leaves open. -/

namespace Sys2Proof

/-- The GPIO service's answer to one `acquire` call (60_exceptions.md R169): a handle, or `Unavailable`. -/
inductive Answer where
  | ok (handle : Handle)
  | unavailable
deriving DecidableEq, Repr, Inhabited

/-- The parameters that the host path reads (00_scope.md R10): the channel's capacity C and the largest value a
hex token parses to (`none`: unbounded). A machine carries its own, and no step changes them (assumption 10). -/
structure Config where
  cap : Nat
  hexLimit : Option Nat
deriving DecidableEq, Repr

/-- The reference sizing: C = 50 bytes and no limit on a hex value (00_scope.md R10). -/
def Config.reference : Config := { cap := 50, hexLimit := none }

/-- `N_BITS`: bits of a segment pattern and of a frame (00_scope.md R10). -/
def Config.nBits : Nat := 8

/-- `N_DIGITS`: entries of the segment table (00_scope.md R10). -/
def Config.nDigits : Nat := 16

/-- `T_COUNT`: the spacing of the counting loops, in seconds (00_scope.md R10). -/
def Config.tCount : Nat := 1

/-- `ACQUIRE`: what the GPIO service answers for each line of an instance made at reset, an environment draw
(00_scope.md R10, 41_serializer.md R91). A free value (assumption 3). -/
opaque Config.acquireAnswer : Line → Answer

/-- The `n`-th byte drawn for a buffer whose copy failed: any value (45_host_command_path.md R141). A free value
(assumption 4). -/
opaque Config.freeByte : Nat → Byte

/-- `T_SHORT`: the short delay in nanoseconds, open; no rule depends on it (00_scope.md R10, R15; assumption 14). -/
opaque Config.tShort : Nat

/-- `PIN_DATA`, `PIN_CLOCK`, `PIN_LATCH`: deployment data, open; no rule depends on them (00_scope.md R10,
10_state.md R25; assumption 14). -/
opaque Config.pin : Line → Nat

end Sys2Proof
end

