-- ==== Sys2Proof/Syntax.lean ====
section
/-! DEFINITION. The block's operations, one constructor per row of spec/opcode_table.json, and the terms of its
assembler syntax (30_encoding.md R61, R68). -/

namespace Sys2Proof

/-- The four operations of the block (00_scope.md R3, 30_encoding.md R61). The operand of WRITE_DIGIT and ENCODE is
the 4-bit DigitValue of 30_encoding.md R62. -/
inductive Instr where
  /-- INIT, `initialize()` (41_serializer.md R90). -/
  | init
  /-- WRITE_DIGIT d, `write_digit(value)` (41_serializer.md R95). -/
  | writeDigit (d : Digit)
  /-- TEARDOWN, `teardown()` (41_serializer.md R104). -/
  | teardown
  /-- ENCODE d, the table lookup (40_encoder.md R81). -/
  | encode (d : Digit)
deriving DecidableEq, Repr

/-- The mnemonics of the assembler syntax (30_encoding.md R68). -/
inductive Mnemonic where
  | init
  | writeDigit
  | teardown
  | encode
deriving DecidableEq, Repr

/-- One line of assembler text before it is checked: a mnemonic and the digit written after it, if any. -/
structure AsmTerm where
  mnemonic : Mnemonic
  operand : Option Nat
deriving DecidableEq, Repr

end Sys2Proof
end

