-- ==== Sys2Proof/WellFormed.lean ====
section
/-! DEFINITION. What makes an assembler term, an operation and a configuration well-formed. -/

namespace Sys2Proof

/-- An assembler term is well-formed when INIT and TEARDOWN have no operand and WRITE_DIGIT and ENCODE have a digit
0 to 15 (30_encoding.md R68). -/
def AsmTerm.wellFormed (t : AsmTerm) : Bool :=
  match t.mnemonic, t.operand with
  | .init, none => true
  | .teardown, none => true
  | .writeDigit, some v => decide (v < Config.nDigits)
  | .encode, some v => decide (v < Config.nDigits)
  | _, _ => false

/-- The assembler term of an operation. -/
def Instr.toAsm : Instr → AsmTerm
  | .init => ⟨.init, none⟩
  | .writeDigit d => ⟨.writeDigit, some d.toNat⟩
  | .teardown => ⟨.teardown, none⟩
  | .encode d => ⟨.encode, some d.toNat⟩

/-- An operation is well-formed when its assembler term is. Every operation is, since the digit operand has four
bits: "no out-of-range digit can reach the block" (92_eei_decisions.md D2). -/
def Instr.wellFormed (i : Instr) : Bool := i.toAsm.wellFormed

/-- A configuration is well-formed when the channel has at least one byte: CAP is "a parameter ≥ 1"
(00_scope.md R10). -/
def Config.wellFormed (c : Config) : Bool := decide (1 ≤ c.cap)

end Sys2Proof
end

