-- ==== Sys2Proof/Decode.lean ====
section
/-! DEFINITION. The operation word OPW8: its fields, decoder, encoder, opcode map, and the assembler text
(30_encoding.md R60 to R65, R68, R70). -/

namespace Sys2Proof

/-! ### Fields (30_encoding.md R60) -/

/-- `w[7:6]`, which operation. -/
def opField (w : Byte) : BitVec 2 := w.extractLsb' 6 2

/-- `w[5:4]`, reserved, must be 00. -/
def rsvField (w : Byte) : BitVec 2 := w.extractLsb' 4 2

/-- `w[3:0]`, the digit operand, zero-extended and unscaled (30_encoding.md R62). -/
def digitField (w : Byte) : Digit := w.extractLsb' 0 4

/-! ### Decoder -/

/-- Why a word is illegal (30_encoding.md R63). -/
inductive Illegal where
  /-- `rsv ≠ 00`. -/
  | reservedBits (w : Byte)
  /-- `op` is INIT or TEARDOWN and `d ≠ 0000`. -/
  | operandNotZero (w : Byte)
deriving DecidableEq, Repr

/-- Decoding is total on bytes: one of the four operations, or illegal by name (30_encoding.md R61, R63, R64). -/
def decode (w : Byte) : Except Illegal Instr :=
  if rsvField w ≠ 0b00#2 then .error (.reservedBits w)
  else if opField w = 0b00#2 then
    if digitField w = 0b0000#4 then .ok .init else .error (.operandNotZero w)
  else if opField w = 0b01#2 then .ok (.writeDigit (digitField w))
  else if opField w = 0b10#2 then
    if digitField w = 0b0000#4 then .ok .teardown else .error (.operandNotZero w)
  else .ok (.encode (digitField w))

/-- The operation a decoding answers, if it answers one. -/
def decodedInstr (r : Except Illegal Instr) : Option Instr :=
  match r with
  | .ok i => some i
  | .error _ => none

/-- The decoder on an instruction numbered as spec/opcode_table.json numbers its bits: one word of exactly 8 bits
(30_encoding.md R65). -/
def decodeTableWord (nbits w : Nat) : Option Instr :=
  if nbits = 8 ∧ w < 256 then decodedInstr (decode (BitVec.ofNat 8 w)) else none

/-! ### Encoder -/

/-- The word with the given operation and digit fields and reserved bits 00 (30_encoding.md R60). -/
def opWord (op : BitVec 2) (d : Digit) : Byte := op ++ 0b00#2 ++ d

/-- The word of an operation (30_encoding.md R60, R61). -/
def encode : Instr → Byte
  | .init => opWord 0b00#2 0b0000#4
  | .writeDigit d => opWord 0b01#2 d
  | .teardown => opWord 0b10#2 0b0000#4
  | .encode d => opWord 0b11#2 d

/-! ### Opcode map (30_encoding.md R70, opcode_table.json) -/

/-- One row of the opcode map. -/
structure OpcodeRow where
  mnemonic : Mnemonic
  matchBits : Byte
  mask : Byte
deriving DecidableEq, Repr

/-- The opcode map of 30_encoding.md R70. -/
def opcodeMap : List OpcodeRow :=
  [⟨.init, 0x00#8, 0xFF#8⟩, ⟨.writeDigit, 0x40#8, 0xF0#8⟩, ⟨.teardown, 0x80#8, 0xFF#8⟩, ⟨.encode, 0xC0#8, 0xF0#8⟩]

/-- Whether a word is one of a row's: it agrees with the row's match under the row's mask. -/
def rowMatches (r : OpcodeRow) (w : Byte) : Bool := w &&& r.mask == r.matchBits

/-- The legal words of 30_encoding.md R63: 0x00, 0x40 to 0x4F, 0x80 and 0xC0 to 0xCF. -/
def legalWord (w : Byte) : Bool :=
  w.toNat == 0x00 || (0x40 ≤ w.toNat && w.toNat ≤ 0x4F) || w.toNat == 0x80 || (0xC0 ≤ w.toNat && w.toNat ≤ 0xCF)

/-! ### Assembler text (30_encoding.md R68; assumption 17) -/

/-- The operation a well-formed assembler term spells. -/
def asmToInstr (t : AsmTerm) : Option Instr :=
  if t.wellFormed then
    match t.mnemonic with
    | .init => some .init
    | .writeDigit => some (.writeDigit (BitVec.ofNat 4 (t.operand.getD 0)))
    | .teardown => some .teardown
    | .encode => some (.encode (BitVec.ofNat 4 (t.operand.getD 0)))
  else none

/-- The spelling of a mnemonic. -/
def mnemonicText : Mnemonic → List Char
  | .init => ['I', 'N', 'I', 'T']
  | .writeDigit => ['W', 'R', 'I', 'T', 'E', '_', 'D', 'I', 'G', 'I', 'T']
  | .teardown => ['T', 'E', 'A', 'R', 'D', 'O', 'W', 'N']
  | .encode => ['E', 'N', 'C', 'O', 'D', 'E']

/-- The decimal spellings of the digits 0 to 15. -/
def decimalSpellings : List (List Char) :=
  [['0'], ['1'], ['2'], ['3'], ['4'], ['5'], ['6'], ['7'], ['8'], ['9'],
   ['1', '0'], ['1', '1'], ['1', '2'], ['1', '3'], ['1', '4'], ['1', '5']]

/-- The hexadecimal spellings `0x0` to `0xF`. -/
def hexSpellings : List (List Char) :=
  ['0', '1', '2', '3', '4', '5', '6', '7', '8', '9', 'A', 'B', 'C', 'D', 'E', 'F'].map fun c => ['0', 'x', c]

/-- The digit a spelling names: "a digit 0 to 15, written in decimal or as `0x0` to `0xF`". -/
def asmDigit (cs : List Char) : Option Nat :=
  match decimalSpellings.idxOf? cs with
  | some v => some v
  | none => hexSpellings.idxOf? cs

/-- The mnemonic a spelling names. -/
def asmMnemonic (cs : List Char) : Option Mnemonic :=
  if cs = mnemonicText .init then some .init
  else if cs = mnemonicText .writeDigit then some .writeDigit
  else if cs = mnemonicText .teardown then some .teardown
  else if cs = mnemonicText .encode then some .encode
  else none

/-- A line of text cut at its first space: what stands before it, and what follows it if there is one. -/
def splitAtSpace : List Char → List Char × Option (List Char)
  | [] => ([], none)
  | c :: cs =>
    if c = ' ' then ([], some cs)
    else let r := splitAtSpace cs; (c :: r.1, r.2)

/-- The term a line of assembler text spells: a mnemonic, or a mnemonic, one space and a digit. -/
def parseAsm (cs : List Char) : Option AsmTerm :=
  let r := splitAtSpace cs
  match asmMnemonic r.1, r.2 with
  | some m, none => some ⟨m, none⟩
  | some m, some ds => (asmDigit ds).map fun v => ⟨m, some v⟩
  | none, _ => none

/-- The operation a line of assembler text spells. -/
def assemble (cs : List Char) : Option Instr := (parseAsm cs).bind asmToInstr

/-- The text of an operation, its digit in decimal. -/
def asmText (i : Instr) : List Char :=
  match i.toAsm.operand with
  | none => mnemonicText i.toAsm.mnemonic
  | some v => mnemonicText i.toAsm.mnemonic ++ ' ' :: decimalSpellings.getD v []

end Sys2Proof
end

