-- ==== Sys2Proof/Machine/State.lean ====
section
/-! DEFINITION. The machine's state as plain data, why a step can stop, and the state after reset
(10_state.md R21 to R33, 45_host_command_path.md R127, R136, 60_exceptions.md R171, R180). -/

namespace Sys2Proof.Machine

/-! ### The block's vocabulary -/

/-- `drv`, the driver's lifecycle (10_state.md R22). -/
inductive Lifecycle where
  /-- `UNINIT`: constructed, `initialize()` not yet called. -/
  | uninit
  /-- `ACTIVE`: initialization succeeded, the three lines are held. -/
  | active
  /-- `INERT`: a line could not be acquired; permanent. -/
  | inert
  /-- `RELEASED`: `teardown()` has run. -/
  | released
deriving DecidableEq, Repr

/-- The kinds of a usage fault (60_exceptions.md R163). -/
inductive UsageKind where
  /-- `INIT_AGAIN` -/
  | initAgain
  /-- `NOT_INITIALIZED` -/
  | notInitialized
  /-- `AFTER_TEARDOWN` -/
  | afterTeardown
deriving DecidableEq, Repr

/-- The named causes of 60_exceptions.md R162. -/
inductive Cause where
  | configurationError
  | channelBoundsError
  | transferFault
  | parseError
  | rangeError
  | unrecognizedCommand
  | usageFault
  | illegalOperation
deriving DecidableEq, Repr

/-- The one diagnostic text that is the info of a `Log` event (45_host_command_path.md R134). -/
inductive Message where
  /-- "no option found" -/
  | noOptionFound
deriving DecidableEq, Repr

/-- The info value of a `Log` event: a line, a token, a value or the given text (60_exceptions.md R162, R175). -/
inductive Info where
  | line (l : Line)
  | token (bytes : List Byte)
  | value (v : Nat)
  | text (m : Message)
deriving DecidableEq, Repr

/-- What an `Acquire` event records of the service's answer (10_state.md R27). -/
inductive AcquireResult where
  | ok
  | unavailable
deriving DecidableEq, Repr

/-- The event alphabet of the trace (10_state.md R27). -/
inductive Event where
  /-- `Acquire(L, Ok|Unavailable)` -/
  | acquire (l : Line) (r : AcquireResult)
  /-- `SetOutput(L, b)` -/
  | setOutput (l : Line) (b : Bool)
  /-- `Set(L, b)` -/
  | set (l : Line) (b : Bool)
  /-- `Delay(SHORT)`, a busy wait (70_reset_and_hazards.md R189) -/
  | delayShort
  /-- `Release(L)` -/
  | release (l : Line)
  /-- `Log(cause, info)` -/
  | log (c : Cause) (i : Info)
  /-- `Sleep(n s)`, the host's yielding wait (45_host_command_path.md R132) -/
  | sleep (seconds : Nat)
deriving DecidableEq, Repr

/-- `seq`, the position within an operation (10_state.md R28): `inWrite d k` when the next event is event `k` of the
frame of digit `d`. -/
inductive Seq where
  | idle
  | inWrite (d : Digit) (k : Fin 44)
deriving DecidableEq, Repr

/-- The block's state (10_state.md R21). The segment ROM is a constant and no field (R26). -/
structure Block where
  /-- Lifecycle (R22). -/
  drv : Lifecycle
  /-- Handles held (R23). -/
  h : PerLine (Option Handle)
  /-- Level last driven on each line; `none` while the block does not drive it (R24). -/
  lv : PerLine (Option Bool)
  /-- Events emitted, oldest first (R27). -/
  trace : List Event
  /-- Position within an operation (R28). -/
  seq : Seq
  /-- Sticky usage-fault mark (R29). -/
  fault : Option UsageKind
  /-- Sticky refusal mark (R29). -/
  refused : Option Byte
deriving DecidableEq, Repr

/-! ### The external shift register's observer (60_exceptions.md R171) -/

/-- One cell of the observer: `Known(b)` or `Unknown`. -/
inductive ObsCell where
  | known (b : Bool)
  | unknown
deriving DecidableEq, Repr

/-- The observer: shift stage `sr` and storage register `st` (the parallel outputs), index 0 is Q_A and index 7 is
Q_H. It is no part of the block. -/
structure Observer where
  sr : List ObsCell
  st : List ObsCell
deriving DecidableEq, Repr

/-! ### The host (45_host_command_path.md) -/

/-- The parser's intermediate state (45_host_command_path.md R127). -/
structure ParseOutcome where
  display : Bool
  countdown : Bool
  countup : Bool
  value : Option Nat
  resolved : Bool
deriving DecidableEq, Repr

/-- The value returned to the caller of an operation that returns one (assumption 8). -/
inductive Reply where
  /-- ENCODE's segment pattern (40_encoder.md R81). -/
  | pattern (p : Byte)
  /-- `accept`'s count of bytes (45_host_command_path.md R137). -/
  | accepted (n : Nat)
  /-- `retrieve`'s bytes (45_host_command_path.md R139). -/
  | bytes (bs : List Byte)
  /-- `Error(OutOfSpace)`, with the offset (45_host_command_path.md R137, 60_exceptions.md R162). -/
  | outOfSpace (offset : Nat)
  /-- `Error(TransferFault)` (45_host_command_path.md R141). -/
  | transferFault
deriving DecidableEq, Repr

/-- One action of the controller's expansion of a command (45_host_command_path.md R131 to R134). -/
inductive HostAction where
  /-- Issue an operation word to the block. -/
  | issue (w : Byte)
  /-- `Sleep(T_COUNT)`. -/
  | sleep
  /-- Log a diagnostic. -/
  | log (c : Cause) (i : Info)
deriving DecidableEq, Repr

/-- The accept in progress, if any: the actions still to run and the value it will return
(45_host_command_path.md R138, R144; assumption 7). -/
inductive HostCall where
  | idle
  | running (todo : List HostAction) (result : Reply)
deriving DecidableEq, Repr

/-- One operation the host issues. `copyFails` is the environment's draw of whether the byte copy of this call fails
(45_host_command_path.md R141; assumption 5). -/
inductive HostRequest where
  /-- Issue an operation word to the block. -/
  | word (w : Byte)
  /-- `accept(offset, payload)` (45_host_command_path.md R137). -/
  | accept (offset : Nat) (payload : List Byte) (copyFails : Bool)
  /-- `retrieve(offset, max_len)` (45_host_command_path.md R139). -/
  | retrieve (offset maxLen : Nat) (copyFails : Bool)
deriving DecidableEq, Repr

/-- Channel memory: the (address, byte) pairs whose byte is not 0, addresses strictly rising. -/
abbrev Memory := List Host.Cell

/-- The host's state. -/
structure HostState where
  /-- The channel's buffer (R136). -/
  buf : Memory
  /-- The channel's cursor (R136, R142). -/
  cursor : Nat
  /-- The outcome of the last parse (R127; assumption 16). -/
  outcome : ParseOutcome
  /-- The accept in progress (assumption 7). -/
  call : HostCall
  /-- The operations the host has still to issue, the next one first (10_state.md R33; assumption 1). -/
  requests : List HostRequest
  /-- The values returned so far, oldest first (assumption 8). -/
  replies : List Reply
deriving DecidableEq, Repr

/-! ### The machine -/

/-- The machine: the block, its host, the observer of its lines, and the environment's draws. -/
structure State where
  /-- The parameters of this machine; no step changes them (00_scope.md R10). -/
  cfg : Config
  /-- The GPIO service's answer to the acquisition of each line (41_serializer.md R91; assumption 3). -/
  answers : PerLine Answer
  block : Block
  host : HostState
  obs : Observer
  /-- How many free bytes have been drawn (assumption 4). -/
  free : Nat
deriving DecidableEq, Repr

/-! ### Why a step stops -/

/-- Why the machine has no step. -/
inductive Fault where
  /-- Raised by `step` and by every operation while the sticky fault mark is set: "no operation has a step"
  (10_state.md R29, 60_exceptions.md R163). Safe: the source never gets here. -/
  | faultMarkSet (kind : UsageKind)
  /-- Raised by `step` and by every operation while the sticky refusal mark is set (10_state.md R29, 60_exceptions.md
  R164). Safe. -/
  | refusalMarkSet (w : Byte)
  /-- Raised by every operation issued while a frame is in progress: a second caller has no step (41_serializer.md
  R103, 60_exceptions.md R174). `step` itself never raises it: it runs the frame's next event. Safe. -/
  | operationInProgress (d : Digit) (k : Fin 44)
deriving DecidableEq, Repr

/-- Why something has no meaning in the model. -/
inductive Refusal where
  /-- Raised by `exec` for an instruction without a meaning; no arm raises it now. Safe. -/
  | notModelled (mnemonic : String)
  /-- Raised by the wide segment lookup for an index outside 0 to 15 (40_encoder.md R82). No operation of the block can
  form such an index. Safe. -/
  | segIndexOutside (index : Int)
deriving DecidableEq, Repr

/-! ### Reset (10_state.md R32, 70_reset_and_hazards.md R180) -/

/-- A parse starts with every flag 0, no value and `resolved = 0` (45_host_command_path.md R127). -/
def ParseOutcome.fresh : ParseOutcome :=
  { display := false, countdown := false, countup := false, value := none, resolved := false }

/-- The observer with every cell Unknown (60_exceptions.md R171). -/
def Observer.allUnknown : Observer :=
  { sr := List.replicate 8 .unknown, st := List.replicate 8 .unknown }

/-- The block right after the driver instance is constructed (10_state.md R32). -/
def Block.reset : Block :=
  { drv := .uninit
    h := PerLine.fill none
    lv := PerLine.fill none
    trace := []
    seq := .idle
    fault := none
    refused := none }

/-- The host at reset: the channel all zero with cursor 0 (45_host_command_path.md R136), nothing issued. -/
def HostState.reset : HostState :=
  { buf := []
    cursor := 0
    outcome := .fresh
    call := .idle
    requests := []
    replies := [] }

/-- The machine right after reset, with the given parameters and the given answers of the GPIO service. -/
def State.resetWith (cfg : Config) (answers : PerLine Answer) : State :=
  { cfg := cfg
    answers := answers
    block := .reset
    host := .reset
    obs := .allUnknown
    free := 0 }

/-- The machine right after reset: the reference parameters, and any answers of the GPIO service. -/
def State.reset : State :=
  State.resetWith .reference
    ⟨Config.acquireAnswer .data, Config.acquireAnswer .clock, Config.acquireAnswer .latch⟩

end Sys2Proof.Machine
end

