-- ==== Sys2Proof/Machine/Flags.lean ====
section
/-! DEFINITION. Flags: the block has none (10_state.md R30). The three flags of the host's ParseOutcome "are the only
flags in the system" (45_host_command_path.md R127). -/

namespace Sys2Proof.Machine

/-- The display flag is set; "a flag set twice stays 1". -/
def setDisplayFlag (o : ParseOutcome) : ParseOutcome := { o with display := true }

/-- The countdown flag is set. -/
def setCountdownFlag (o : ParseOutcome) : ParseOutcome := { o with countdown := true }

/-- The countup flag is set. -/
def setCountupFlag (o : ParseOutcome) : ParseOutcome := { o with countup := true }

/-- A value is resolved, which "terminates token scanning". -/
def setResolved (v : Nat) (o : ParseOutcome) : ParseOutcome := { o with value := some v, resolved := true }

end Sys2Proof.Machine
end

