-- ==== Sys2Proof/Machine/Parser.lean ====
section
/-! DEFINITION. The CommandParser: tokens, hex literals, scanning and resolution (45_host_command_path.md R120 to
R129). -/

namespace Sys2Proof.Machine

/-- The bytes of an ASCII text. -/
def ascii (cs : List Char) : List Byte := cs.map fun c => BitVec.ofNat 8 c.toNat

/-! ### Tokens (45_host_command_path.md R120, R122) -/

/-- The input split at each byte 0x20; consecutive, leading and trailing spaces give empty tokens. -/
def tokens : List Byte → List (List Byte)
  | [] => [[]]
  | b :: bs =>
    if b = 0x20#8 then [] :: tokens bs
    else
      match tokens bs with
      | [] => [[b]]
      | t :: ts => (b :: t) :: ts

/-- The spellings of the display flag. -/
def displaySpellings : List (List Byte) :=
  [ascii ['-', '-', 'd', 'i', 's', 'p', 'l', 'a', 'y'], ascii ['-', 'd']]

/-- The spellings of the countdown flag. -/
def countdownSpellings : List (List Byte) :=
  [ascii ['-', '-', 'c', 'o', 'u', 'n', 't', 'd', 'o', 'w', 'n'], ascii ['-', 'l']]

/-- The spellings of the countup flag. -/
def countupSpellings : List (List Byte) :=
  [ascii ['-', '-', 'c', 'o', 'u', 'n', 't', 'u', 'p'], ascii ['-', 'u']]

/-! ### Hex literals (45_host_command_path.md R124, R125) -/

/-- What follows the first "0x" of a token, if it contains one. -/
def afterFirst0x : List Byte → Option (List Byte)
  | [] => none
  | b :: bs => if b = 0x30#8 ∧ bs.head? = some 0x78#8 then some bs.tail else afterFirst0x bs

/-- A text less one trailing LF (0x0A), if it ends in one. -/
def dropTrailingLF (t : List Byte) : List Byte := if t.getLast? = some 0x0A#8 then t.dropLast else t

/-- The value of one character of `0`-`9`, `a`-`f`, `A`-`F`. -/
def hexDigit (b : Byte) : Option Nat :=
  let n := b.toNat
  if 0x30 ≤ n ∧ n ≤ 0x39 then some (n - 0x30)
  else if 0x61 ≤ n ∧ n ≤ 0x66 then some (n - 0x61 + 10)
  else if 0x41 ≤ n ∧ n ≤ 0x46 then some (n - 0x41 + 10)
  else none

/-- The base-16 value of a text of hex digits read from `acc` on; none at the first byte of another kind
(45_host_command_path.md R143). -/
def hexDigits : Nat → List Byte → Option Nat
  | acc, [] => some acc
  | acc, b :: bs =>
    match hexDigit b with
    | some v => hexDigits (acc * 16 + v) bs
    | none => none

/-- Whether a value is at most `HEX_VALUE_LIMIT`. -/
def withinLimit (limit : Option Nat) (v : Nat) : Bool :=
  match limit with
  | none => true
  | some m => decide (v ≤ m)

/-- The hex value parse of a value text (45_host_command_path.md R125). -/
def hexValue (limit : Option Nat) (text : List Byte) : Option Nat :=
  let t := dropTrailingLF text
  if t = [] then none
  else
    match hexDigits 0 t with
    | some v => if withinLimit limit v then some v else none
    | none => none

/-! ### Classification (45_host_command_path.md R123) -/

/-- The class of a token. -/
inductive TokenClass where
  | displayFlag
  | countdownFlag
  | countupFlag
  | hexLiteral (valueText : List Byte)
  | ignored
deriving DecidableEq, Repr

/-- The class of a token, by exact byte comparison. -/
def classify (t : List Byte) : TokenClass :=
  if t ∈ displaySpellings then .displayFlag
  else if t ∈ countdownSpellings then .countdownFlag
  else if t ∈ countupSpellings then .countupFlag
  else
    match afterFirst0x t with
    | some v => if 3 ≤ t.length then .hexLiteral v else .ignored
    | none => .ignored

/-! ### The scan (45_host_command_path.md R126) -/

/-- What a scan gives: the tokens that failed to parse, in order, and the outcome. -/
structure Scan where
  failed : List (List Byte)
  outcome : ParseOutcome
deriving DecidableEq, Repr

/-- The scan with one more failing token before it. -/
def addFailed (t : List Byte) (r : Scan) : Scan := { r with failed := t :: r.failed }

/-- Tokens are visited in order until a hex literal parses; later tokens are not examined. -/
def scan (limit : Option Nat) : List (List Byte) → ParseOutcome → Scan
  | [], o => { failed := [], outcome := o }
  | t :: ts, o =>
    match classify t with
    | .displayFlag => scan limit ts (setDisplayFlag o)
    | .countdownFlag => scan limit ts (setCountdownFlag o)
    | .countupFlag => scan limit ts (setCountupFlag o)
    | .hexLiteral v =>
      match hexValue limit v with
      | some n => { failed := [], outcome := setResolved n o }
      | none => addFailed t (scan limit ts o)
    | .ignored => scan limit ts o

/-- The scan of an input, its outcome afresh (45_host_command_path.md R127). -/
def scanBytes (limit : Option Nat) (bytes : List Byte) : Scan := scan limit (tokens bytes) .fresh

/-- The diagnostics of a scan, in token order: one `Log(PARSE_ERROR, token)` for each failing token
(45_host_command_path.md R125, 60_exceptions.md R166(f)). -/
def scanLogs (r : Scan) : List Event := r.failed.map fun t => .log .parseError (.token t)

/-! ### Resolution (45_host_command_path.md R128, R129) -/

/-- A command (45_host_command_path.md R129). -/
inductive Command where
  | display (v : Nat)
  | countDown (v : Nat)
  | countUp (v : Nat)
  | noOption
deriving DecidableEq, Repr

/-- The command of an outcome: with a value, "in fixed priority `display > countdown > countup`". -/
def resolve (o : ParseOutcome) : Command :=
  match o.resolved, o.value with
  | true, some v =>
    if o.display then .display v
    else if o.countdown then .countDown v
    else if o.countup then .countUp v
    else .noOption
  | true, none => .noOption
  | false, _ => .noOption

/-- `parse(bytes)`: the command (45_host_command_path.md R126). -/
def parse (limit : Option Nat) (bytes : List Byte) : Command := resolve (scanBytes limit bytes).outcome

end Sys2Proof.Machine
end

