-- ==== Sys2Proof/Machine/Controller.lean ====
section
/-! DEFINITION. The DisplayController: the expansion of a command into operation words, sleeps and diagnostics
(45_host_command_path.md R130 to R135). -/

namespace Sys2Proof.Machine

/-- `WRITE_DIGIT(v)` issued for a value 0 to 15: the word with digit field `w[3:0] = v` (45_host_command_path.md
R130). -/
def issueDigit (v : Nat) : HostAction := .issue (encode (.writeDigit (BitVec.ofNat 4 v)))

/-- The range check: the value is accepted when `0 ≤ v ≤ 15` (45_host_command_path.md R130). -/
def inRange (v : Nat) : Bool := decide (v ≤ 15)

/-- The range error of a value: one diagnostic and no block operation (45_host_command_path.md R130). -/
def rangeError (v : Nat) : List HostAction := [.log .rangeError (.value v)]

/-- Digits from `v` down to 0, a sleep between two writes and none after the last (45_host_command_path.md R132). -/
def countDownActions : Nat → List HostAction
  | 0 => [issueDigit 0]
  | v + 1 => issueDigit (v + 1) :: .sleep :: countDownActions v

/-- `n + 1` digits from `v` up, a sleep between two writes and none after the last (45_host_command_path.md R133). -/
def countUpActions : Nat → Nat → List HostAction
  | 0, v => [issueDigit v]
  | n + 1, v => issueDigit v :: .sleep :: countUpActions n (v + 1)

/-- The expansion of a command (45_host_command_path.md R131 to R134). -/
def expand : Command → List HostAction
  | .display v => if inRange v then [issueDigit v] else rangeError v
  | .countDown v => if inRange v then countDownActions v else rangeError v
  | .countUp v => if inRange v then countUpActions (15 - v) v else rangeError v
  | .noOption => [.log .unrecognizedCommand (.text .noOptionFound)]

/-- The text of a command's range diagnostic, where the source gives one (45_host_command_path.md R131,
60_exceptions.md R175). A `Log` event does not carry it. -/
def rangeErrorText : Command → Option String
  | .display _ => some "value not supported for display"
  | .countDown _ => none
  | .countUp _ => none
  | .noOption => none

end Sys2Proof.Machine
end

