-- ==== Sys2Proof/Machine/Memory.lean ====
section
/-! DEFINITION. The channel's byte memory: reads, writes and its canonical form (45_host_command_path.md R136, R137,
R139; assumption 19). -/

namespace Sys2Proof.Machine

/-- What an unlisted address reads as: every byte is 0 at reset and after a clear (45_host_command_path.md R136,
R137). -/
def Memory.unlisted : Byte := 0x00#8

/-- The canonical form: addresses strictly rising, and no entry that an unlisted address would read as. -/
abbrev Memory.wf (m : Memory) : Prop :=
  m.Pairwise (fun c d => c.1 < d.1) ∧ ∀ c ∈ m, c.2 ≠ Memory.unlisted

/-- The byte at an address. -/
def Memory.read : Memory → Nat → Byte
  | [], _ => Memory.unlisted
  | (a, b) :: m, x => if a = x then b else Memory.read m x

/-- The memory with one byte stored; storing what an unlisted address reads as removes the entry. -/
def Memory.write : Memory → Nat → Byte → Memory
  | [], x, v => if v = Memory.unlisted then [] else [(x, v)]
  | (a, b) :: m, x, v =>
    if x < a then (if v = Memory.unlisted then (a, b) :: m else (x, v) :: (a, b) :: m)
    else if x = a then (if v = Memory.unlisted then m else (x, v) :: m)
    else (a, b) :: Memory.write m x v

/-- Store the bytes of a list at consecutive addresses, in list order (20_memory.md R45). -/
def Memory.writeBytes : Memory → Nat → List Byte → Memory
  | m, _, [] => m
  | m, x, v :: vs => Memory.writeBytes (Memory.write m x v) (x + 1) vs

/-- The `n` bytes from an address on, in address order (20_memory.md R45). -/
def Memory.readBytes (m : Memory) : Nat → Nat → List Byte
  | _, 0 => []
  | x, n + 1 => Memory.read m x :: Memory.readBytes m (x + 1) n

/-- The buffer after "clear the buffer's entire contents": every byte 0 (45_host_command_path.md R137). -/
def Memory.cleared : Memory := []

/-- A buffer of `n` bytes with any contents: the free bytes drawn from number `k` on (45_host_command_path.md
R141). -/
def Memory.anyBytes (n k : Nat) : Memory :=
  Memory.writeBytes Memory.cleared 0 ((List.range n).map fun j => Config.freeByte (k + j))

end Sys2Proof.Machine
end

