-- ==== Sys2Proof/Machine/Observer.lean ====
section
/-! DEFINITION. The observer of the external 74HC595-class chip, "supplied from general knowledge" by the spec
(60_exceptions.md R171, 92_eei_decisions.md D14, D16; assumption 12). -/

namespace Sys2Proof.Machine

/-- What a CLOCK rising edge samples on DATA: the driven level, unknown while DATA is not driven. -/
def sampleData (lv : PerLine (Option Bool)) : ObsCell :=
  match lv.data with
  | some b => .known b
  | none => .unknown

/-- A CLOCK rising edge: `sr[0]` takes the sample and every other cell moves one place toward Q_H. -/
def shiftIn (c : ObsCell) (o : Observer) : Observer := { o with sr := (c :: o.sr).take 8 }

/-- A LATCH rising edge: `st <- sr`. -/
def latchOutputs (o : Observer) : Observer := { o with st := o.sr }

/-- The observer after an event, `lv` being the block's levels before it (60_exceptions.md R171). -/
def observe (lv : PerLine (Option Bool)) (e : Event) (o : Observer) : Observer :=
  match e with
  | .acquire _ _ => .allUnknown
  | .setOutput _ _ => .allUnknown
  | .release _ => .allUnknown
  | .set .clock true => if lv.clock = some false then shiftIn (sampleData lv) o else o
  | .set .latch true => if lv.latch = some false then latchOutputs o else o
  | .set .data _ => o
  | .set .clock false => o
  | .set .latch false => o
  | .delayShort => o
  | .log _ _ => o
  | .sleep _ => o

end Sys2Proof.Machine
end

