-- ==== Sys2Proof/Machine/Operands.lean ====
section
/-! DEFINITION. The operand forms: the segment ROM indexed by the digit operand, and bit extraction (10_state.md R26,
40_encoder.md R80, R82, 41_serializer.md R96, R107). -/

namespace Sys2Proof.Machine

/-- The 16 entries of the segment ROM, "taken as written" (40_encoder.md R80). -/
def segRom : Vector Byte 16 :=
  #v[0b00000010#8, 0b10011110#8, 0b00100100#8, 0b00001100#8,
     0b10011000#8, 0b01001000#8, 0b01000000#8, 0b00011110#8,
     0b00000000#8, 0b00001000#8, 0b00010000#8, 0b11000000#8,
     0b01100010#8, 0b10000100#8, 0b01100000#8, 0b01110000#8]

/-- `MemRead(SEG, d, 1)`: the ROM entry of digit `d` (00_scope.md R14, 10_state.md R26). -/
def memReadSeg (d : Digit) : Byte := segRom[d.toFin]

/-- A lookup that takes a wider integer refuses an index outside 0 to 15 (40_encoder.md R82). -/
def wideLookup (index : Int) : Except Refusal Byte :=
  if 0 ≤ index ∧ index < 16 then .ok (memReadSeg (BitVec.ofInt 4 index))
  else .error (.segIndexOutside index)

/-- `p[i] = (p >> i) & 1`, as a line level (00_scope.md R12, 41_serializer.md R96). -/
def patternBit (p : Byte) (i : Nat) : Bool := (p >>> i) &&& 1#8 == 1#8

end Sys2Proof.Machine
end

