-- ==== Sys2Proof/Machine/Ops.lean ====
section
/-! DEFINITION. The shared operations: the pseudocode primitives of 00_scope.md R14, the sticky marks of
60_exceptions.md R163 and R164, and the frame of 41_serializer.md R98. -/

namespace Sys2Proof.Machine

/-! ### Writes of one field -/

/-- `s.drv <- v` -/
def setDrv (v : Lifecycle) (s : State) : State := { s with block := { s.block with drv := v } }

/-- `s.h(l) <- v` -/
def setHandle (l : Line) (v : Option Handle) (s : State) : State :=
  { s with block := { s.block with h := s.block.h.set l v } }

/-- `s.lv(l) <- v` -/
def setLevel (l : Line) (v : Option Bool) (s : State) : State :=
  { s with block := { s.block with lv := s.block.lv.set l v } }

/-- `s.seq <- v` -/
def setSeq (v : Seq) (s : State) : State := { s with block := { s.block with seq := v } }

/-- The value `r` is returned to the caller. -/
def reply (r : Reply) (s : State) : State := { s with host := { s.host with replies := s.host.replies ++ [r] } }

/-- The host's accept in progress becomes `c`. -/
def setCall (c : HostCall) (s : State) : State := { s with host := { s.host with call := c } }

/-- The operations still to be issued become `rs`. -/
def setRequests (rs : List HostRequest) (s : State) : State := { s with host := { s.host with requests := rs } }

/-- The channel's buffer and cursor become `buf` and `cursor`. -/
def setChannel (buf : Memory) (cursor : Nat) (s : State) : State :=
  { s with host := { s.host with buf := buf, cursor := cursor } }

/-- The parser's outcome becomes `o`. -/
def setOutcome (o : ParseOutcome) (s : State) : State := { s with host := { s.host with outcome := o } }

/-! ### Emit and the GPIO calls (00_scope.md R14, 60_exceptions.md R169) -/

/-- `Emit(ev)`: the event is appended to the trace (10_state.md R27), and the observer sees it with the levels before
it (60_exceptions.md R171). -/
def emit (e : Event) (s : State) : State :=
  { s with
    block := { s.block with trace := s.block.trace ++ [e] }
    obs := observe s.block.lv e s.obs }

/-- Several events in order. -/
def emitAll : List Event → State → State
  | [], s => s
  | e :: es, s => emitAll es (emit e s)

/-- `GpioAcquire(L)` answered with a handle: the event, and the block holds the handle (41_serializer.md R90). -/
def gpioAcquired (l : Line) (handle : Handle) (s : State) : State :=
  setHandle l (some handle) (emit (.acquire l .ok) s)

/-- `GpioSetOutput(L, b)`: `set_output_direction`, which drives the line to `b` (20_memory.md R47, 41_serializer.md
R93). -/
def gpioSetOutput (l : Line) (b : Bool) (s : State) : State := setLevel l (some b) (emit (.setOutput l b) s)

/-- `GpioSet(L, b)`: `set_value`; every one is an event, also when the level does not change (10_state.md R24,
20_memory.md R48). -/
def gpioSet (l : Line) (b : Bool) (s : State) : State := setLevel l (some b) (emit (.set l b) s)

/-- `GpioRelease(L)`: `release`; the block holds and drives the line no more (10_state.md R24, 41_serializer.md
R104). -/
def gpioRelease (l : Line) (s : State) : State := setLevel l none (setHandle l none (emit (.release l) s))

/-- The lines released one after the other. -/
def releaseAll : List Line → State → State
  | [], s => s
  | l :: ls, s => releaseAll ls (gpioRelease l s)

/-- `Log(cause, info)` (60_exceptions.md R175). -/
def logDiagnostic (c : Cause) (i : Info) (s : State) : State := emit (.log c i) s

/-! ### Causes (60_exceptions.md R162) -/

/-- The numeric code of a cause. -/
def causeCode : Cause → Nat
  | .configurationError => 1
  | .channelBoundsError => 2
  | .transferFault => 3
  | .parseError => 4
  | .rangeError => 5
  | .unrecognizedCommand => 6
  | .usageFault => 16
  | .illegalOperation => 17

/-- The cause that a returned value reports: only ChannelBoundsError and TransferFault are returned (60_exceptions.md
R161). -/
def replyCause : Reply → Option Cause
  | .outOfSpace _ => some .channelBoundsError
  | .transferFault => some .transferFault
  | .pattern _ => none
  | .accepted _ => none
  | .bytes _ => none

/-- The text of a message. -/
def messageText : Message → String
  | .noOptionFound => "no option found"

/-! ### The sticky marks (10_state.md R29) -/

/-- `raise UsageFault(kind)`: the fault mark is set; no event, every other field unchanged (60_exceptions.md R163). -/
def raiseUsageFault (kind : UsageKind) (s : State) : State :=
  { s with block := { s.block with fault := some kind } }

/-- `refuse Illegal(w)`: the refusal mark is set; no event, every other field unchanged (30_encoding.md R63,
60_exceptions.md R164). -/
def refuseIllegal (w : Byte) (s : State) : State :=
  { s with block := { s.block with refused := some w } }

/-- The mark that blocks every step, if one is set (10_state.md R29, 60_exceptions.md R166(a)). -/
def markStop (s : State) : Option Fault :=
  match s.block.fault, s.block.refused with
  | some k, _ => some (.faultMarkSet k)
  | none, some w => some (.refusalMarkSet w)
  | none, none => none

/-- The cause of the mark that is set (60_exceptions.md R162, codes 16 and 17). -/
def markCause (s : State) : Option Cause :=
  match s.block.fault, s.block.refused with
  | some _, _ => some .usageFault
  | none, some _ => some .illegalOperation
  | none, none => none

/-- Why an operation issued now has no step: a mark, or a frame in progress (41_serializer.md R103, 60_exceptions.md
R174). -/
def opStop (s : State) : Option Fault :=
  match markStop s with
  | some r => some r
  | none =>
    match s.block.seq with
    | .idle => none
    | .inWrite d k => some (.operationInProgress d k)

/-- `require`: run the operation's effect, or no step. -/
def runOp (effect : State → State) (s : State) : Host.Outcome State Fault Refusal :=
  match opStop s with
  | some r => .fault r
  | none => .next (effect s)

/-! ### The frame (30_encoding.md R67, 41_serializer.md R96 to R98) -/

/-- Event `k` of the frame of pattern `p`, in closed form (41_serializer.md R98). -/
def frameEvent (p : Byte) (k : Nat) : Event :=
  if k < 40 then
    if k % 5 = 0 then .set .data (patternBit p (k / 5))
    else if k % 5 = 1 then .delayShort
    else if k % 5 = 2 then .set .clock true
    else if k % 5 = 3 then .delayShort
    else .set .clock false
  else if k = 40 then .delayShort
  else if k = 41 then .set .latch true
  else if k = 42 then .delayShort
  else .set .latch false

/-- The 44 events of the frame of pattern `p`. -/
def frameEvents (p : Byte) : List Event := (List.range 44).map (frameEvent p)

/-- The bit cell of bit `i` (41_serializer.md R96). -/
def bitCell (p : Byte) (i : Nat) : List Event :=
  [.set .data (patternBit p i), .delayShort, .set .clock true, .delayShort, .set .clock false]

/-- The latch pulse (41_serializer.md R97). -/
def latchPulse : List Event := [.delayShort, .set .latch true, .delayShort, .set .latch false]

/-- The frame as the loop of 41_serializer.md R95 gives it: eight bit cells, bit 0 first, then the latch pulse. -/
def frameLoop (p : Byte) : List Event := (List.range Config.nBits).flatMap (bitCell p) ++ latchPulse

/-- One event of a frame happens: a `Set` writes its line, a `Delay` only passes. -/
def frameAct (e : Event) (s : State) : State :=
  match e with
  | .set l b => gpioSet l b s
  | .delayShort => emit .delayShort s
  | .acquire l r => emit (.acquire l r) s
  | .setOutput l b => gpioSetOutput l b s
  | .release l => gpioRelease l s
  | .log c i => emit (.log c i) s
  | .sleep n => emit (.sleep n) s

/-- The position after event `k`: one further, and Idle after event 43 (10_state.md R28). -/
def seqAfter (d : Digit) (k : Fin 44) : Seq :=
  if h : k.val + 1 < 44 then .inWrite d ⟨k.val + 1, h⟩ else .idle

/-- WRITE_DIGIT `d` emits event `k` of its frame and advances (10_state.md R28, 41_serializer.md R95). -/
def writeEvent (d : Digit) (k : Fin 44) (s : State) : State :=
  setSeq (seqAfter d k) (frameAct (frameEvent (memReadSeg d) k.val) s)

end Sys2Proof.Machine
end

