-- ==== Sys2Proof/Machine/Channel.lean ====
section
/-! DEFINITION. The BoundedTextChannel: accept and retrieve (45_host_command_path.md R136 to R142). -/

namespace Sys2Proof.Machine

/-- How many of `m` bytes fit from `offset` on (45_host_command_path.md R137, R139, R143). -/
def clampLen (cap offset m : Nat) : Nat := min m (cap - offset)

/-- The buffer after the clear and the copy of the first `n` payload bytes to `offset` (45_host_command_path.md
R137). -/
def copyIn (offset : Nat) (payload : List Byte) (n : Nat) : Memory :=
  Memory.writeBytes Memory.cleared offset (payload.take n)

/-- `execute(parse(buf[offset .. offset+n-1]))` begins: the parse errors are logged, the outcome is kept, and the
command's actions wait to be run before the accept returns `n` (45_host_command_path.md R121, R138; assumption 7). -/
def beginExecution (offset n : Nat) (s : State) : State :=
  let r := scanBytes s.cfg.hexLimit (Memory.readBytes s.host.buf offset n)
  setCall (.running (expand (resolve r.outcome)) (.accepted n)) (setOutcome r.outcome (emitAll (scanLogs r) s))

/-- An accept whose copy fails: the buffer holds any bytes, the cursor stays, no parse runs (45_host_command_path.md
R141; assumption 4). -/
def acceptTransferFault (s : State) : State :=
  let t := setChannel (Memory.anyBytes s.cfg.cap s.free) s.host.cursor s
  reply .transferFault { t with free := s.free + s.cfg.cap }

/-- `accept(offset, payload)` (45_host_command_path.md R137, R138, R141, R142): the bounds check, the clear and copy,
the cursor, and the parse-and-execute cycle. A copy of no byte does not fail: "an accept of zero bytes at `offset < C`
succeeds with n = 0" (R138). -/
def acceptEffect (offset : Nat) (payload : List Byte) (copyFails : Bool) (s : State) : State :=
  let n := clampLen s.cfg.cap offset payload.length
  if s.cfg.cap ≤ offset then reply (.outOfSpace offset) s
  else if copyFails ∧ 0 < n then acceptTransferFault s
  else beginExecution offset n (setChannel (copyIn offset payload n) (offset + n) s)

/-- `retrieve(offset, max_len)` (45_host_command_path.md R139, R141, R142): empty at or beyond the capacity, else the
clamped bytes; no byte of the buffer changes and no parse runs. A copy that fails below the capacity is reported also
for zero bytes (assumption 5), and the bound is checked first (assumption 20). -/
def retrieveEffect (offset maxLen : Nat) (copyFails : Bool) (s : State) : State :=
  if s.cfg.cap ≤ offset then reply (.bytes []) s
  else if copyFails then reply .transferFault s
  else
    let n := clampLen s.cfg.cap offset maxLen
    reply (.bytes (Memory.readBytes s.host.buf offset n)) (setChannel s.host.buf (offset + n) s)

end Sys2Proof.Machine
end

