-- ==== Sys2Proof/Machine/Encoder.lean ====
section
/-! DEFINITION. The 7-segment encoder lookup (40_encoder.md R81). -/

namespace Sys2Proof.Machine

/-- ENCODE's effect: the ROM entry of `d` is returned to the caller; no block state is written and no event is
emitted, in every lifecycle state (40_encoder.md R81). -/
def encodeEffect (d : Digit) (s : State) : State := reply (.pattern (memReadSeg d)) s

/-- ENCODE d (40_encoder.md R81). -/
def execEncode (d : Digit) (s : State) : Host.Outcome State Fault Refusal := runOp (encodeEffect d) s

end Sys2Proof.Machine
end

