-- ==== Sys2Proof/Machine/Serializer.lean ====
section
/-! DEFINITION. The serializer's operations INIT, WRITE_DIGIT and TEARDOWN (41_serializer.md R90 to R105). -/

namespace Sys2Proof.Machine

/-- The lines in the order of every call over all three (41_serializer.md R91, R93, R104). -/
def lineOrder : List Line := [.data, .clock, .latch]

/-! ### INIT -/

/-- The success path: the three lines become outputs, driven low, and the block is ACTIVE (41_serializer.md R93). -/
def enterActive (s : State) : State :=
  setDrv .active (gpioSetOutput .latch false (gpioSetOutput .clock false (gpioSetOutput .data false s)))

/-- The failure path at line `l`: the lines acquired earlier (latest first) are released, one diagnostic names the
failing line, and the block is INERT (41_serializer.md R92). -/
def enterInert (l : Line) (acquired : List Line) (s : State) : State :=
  setDrv .inert (logDiagnostic .configurationError (.line l) (releaseAll acquired s))

/-- The acquisition phase: the lines still to try, and the lines acquired so far, latest first (41_serializer.md R90,
R91). -/
def acquireLines : List Line → List Line → State → State
  | [], _, s => enterActive s
  | l :: ls, acquired, s =>
    match s.answers.get l with
    | .unavailable => enterInert l acquired (emit (.acquire l .unavailable) s)
    | .ok handle => acquireLines ls (l :: acquired) (gpioAcquired l handle s)

/-- INIT's effect (41_serializer.md R90): outside UNINIT a usage fault, else the acquisition of the three lines. -/
def initEffect (s : State) : State :=
  if s.block.drv = .uninit then acquireLines lineOrder [] s else raiseUsageFault .initAgain s

/-- INIT (41_serializer.md R90). -/
def execInit (s : State) : Host.Outcome State Fault Refusal := runOp initEffect s

/-! ### WRITE_DIGIT -/

/-- WRITE_DIGIT's effect (41_serializer.md R95): in ACTIVE the frame begins at its event 0 (10_state.md R28); its 44
events follow, one a step (assumption 6). In INERT nothing happens (R99). In UNINIT and RELEASED a usage fault
(R100). -/
def writeDigitEffect (d : Digit) (s : State) : State :=
  match s.block.drv with
  | .inert => s
  | .uninit => raiseUsageFault .notInitialized s
  | .released => raiseUsageFault .afterTeardown s
  | .active => setSeq (.inWrite d 0) s

/-- WRITE_DIGIT d (41_serializer.md R95). -/
def execWriteDigit (d : Digit) (s : State) : Host.Outcome State Fault Refusal := runOp (writeDigitEffect d) s

/-! ### TEARDOWN -/

/-- TEARDOWN's effect (41_serializer.md R104, R105): the three lines are released if held, and the block is
RELEASED. -/
def teardownEffect (s : State) : State :=
  setDrv .released (if s.block.drv = .active then releaseAll lineOrder s else s)

/-- TEARDOWN (41_serializer.md R104). -/
def execTeardown (s : State) : Host.Outcome State Fault Refusal := runOp teardownEffect s

end Sys2Proof.Machine
end

