-- ==== Sys2Proof/Machine/Dispatch.lean ====
section
/-! DEFINITION. One arm per operation (30_encoding.md R61). -/

namespace Sys2Proof.Machine

def exec (i : Instr) (s : State) : Host.Outcome State Fault Refusal :=
  match i with
  | .init => Sys2Proof.Machine.execInit s
  | .writeDigit d => Sys2Proof.Machine.execWriteDigit d s
  | .teardown => Sys2Proof.Machine.execTeardown s
  | .encode d => Sys2Proof.Machine.execEncode d s

end Sys2Proof.Machine
end

