-- ==== Sys2Proof/Machine/Issue.lean ====
section
/-! DEFINITION. The host issues operations to the block, one at a time and from one context (10_state.md R28,
45_host_command_path.md R138, R144, 60_exceptions.md R166, R174). -/

namespace Sys2Proof.Machine

/-- An operation word reaches the block: decoding precedes all else, and an illegal word is refused (30_encoding.md
R63, 60_exceptions.md R166(b)). -/
def issueWord (w : Byte) (s : State) : Host.Outcome State Fault Refusal :=
  match decode w with
  | .ok i => exec i s
  | .error _ => .next (refuseIllegal w s)

/-- One action of the controller. -/
def runAction (a : HostAction) (s : State) : Host.Outcome State Fault Refusal :=
  match a with
  | .issue w => issueWord w s
  | .sleep => .next (emit (.sleep Config.tCount) s)
  | .log c i => .next (logDiagnostic c i s)

/-- The accept in progress goes on by one action, or returns its count (45_host_command_path.md R138). -/
def continueCall (todo : List HostAction) (result : Reply) (s : State) : Host.Outcome State Fault Refusal :=
  match todo with
  | a :: rest => runAction a (setCall (.running rest result) s)
  | [] => .next (reply result (setCall .idle s))

/-- The host issues its next operation; with none to issue the machine waits (assumption 1). An accept is taken in every
lifecycle state; before INIT has returned the spec forbids the host to issue one, and the model runs it all the same
(70_reset_and_hazards.md R183, assumption 23). -/
def takeRequest (s : State) : Host.Outcome State Fault Refusal :=
  match s.host.requests with
  | [] => .next s
  | .word w :: rest => issueWord w (setRequests rest s)
  | .accept offset payload copyFails :: rest =>
    .next (acceptEffect offset payload copyFails (setRequests rest s))
  | .retrieve offset maxLen copyFails :: rest =>
    .next (retrieveEffect offset maxLen copyFails (setRequests rest s))

/-- The host's turn, when no operation of the block is in progress. -/
def hostStep (s : State) : Host.Outcome State Fault Refusal :=
  match s.host.call with
  | .running todo result => continueCall todo result s
  | .idle => takeRequest s

/-- One step of the machine: none while a mark is set (10_state.md R29), else the next event of the frame in progress
(41_serializer.md R103), else the host's turn. -/
def machineStep (s : State) : Host.Outcome State Fault Refusal :=
  match markStop s with
  | some r => .fault r
  | none =>
    match s.block.seq with
    | .inWrite d k => .next (writeEvent d k s)
    | .idle => hostStep s

/-- The operation word `w` is made the one that the very next step issues: it is the host's next operation, and no
frame and no accept stands before it (assumption 1). -/
def placeWord (w : Byte) (s : State) : State :=
  setRequests (.word w :: s.host.requests) (setCall .idle (setSeq .idle s))

end Sys2Proof.Machine
end

