-- ==== Sys2Proof/Machine/Step.lean ====
section
/-! DEFINITION. One step of the machine, and where it takes its next operation from. -/

namespace Sys2Proof.Machine

/-- One step (10_state.md R28, R29). -/
def step (s : State) : Host.Outcome State Fault Refusal := machineStep s

/-- The state whose next step issues the operation word `w` (one word of 8 bits, 30_encoding.md R65). -/
def State.withFetchWord (s : State) (_nbits w : Nat) : State := placeWord (BitVec.ofNat 8 w) s

end Sys2Proof.Machine
end

