-- ==== Sys2Proof/Safety.lean ====
section
/-! DEFINITION. What counts as a well-behaved machine, in the terms the statements use: the conditions under which an
operation may run, the run of several steps, and the invariants. -/

namespace Sys2Proof.Machine

/-! ### Conditions -/

/-- No sticky mark is set (10_state.md R29). -/
abbrev State.Unmarked (s : State) : Prop := s.block.fault = none ∧ s.block.refused = none

/-- An operation may be issued: no mark is set and no frame is in progress. -/
abbrev State.Ready (s : State) : Prop := s.Unmarked ∧ s.block.seq = .idle

/-- The host's turn: an operation may be issued, and no accept is in progress. -/
abbrev State.HostTurn (s : State) : Prop := s.Ready ∧ s.host.call = .idle

/-- No line is held or driven (10_state.md R23, R24). -/
abbrev State.NoLine (s : State) : Prop := s.block.h = PerLine.fill none ∧ s.block.lv = PerLine.fill none

/-- `n` steps of the machine, stopping at the first fault or refusal. -/
def run (n : Nat) (s : State) : Host.Outcome State Fault Refusal := Host.Core.run Sys2Proof.core n s

/-- `n` steps of the machine run from `s` to `t`. -/
def Reaches (n : Nat) (s t : State) : Prop := run n s = .next t

/-- The operation that a step runs when the host's turn or the accept in progress has come to an operation word: the
word issued next, decoded (45_host_command_path.md R138, 30_encoding.md R64). -/
def State.nextInstr (s : State) : Option Instr :=
  match s.host.call, s.host.requests with
  | .running (.issue w :: _) _, _ => decodedInstr (decode w)
  | .running (.sleep :: _) _, _ => none
  | .running (.log _ _ :: _) _, _ => none
  | .running [] _, _ => none
  | .idle, .word w :: _ => decodedInstr (decode w)
  | .idle, .accept _ _ _ :: _ => none
  | .idle, .retrieve _ _ _ :: _ => none
  | .idle, [] => none

/-! ### The trace read back (10_state.md R27, 60_exceptions.md R170, R171) -/

/-- What the trace says of the lines: which are held, the level driven on each, and the observer. -/
structure LineView where
  held : PerLine Bool
  lv : PerLine (Option Bool)
  obs : Observer
deriving DecidableEq, Repr

/-- The view before any event. -/
def LineView.empty : LineView :=
  { held := PerLine.fill false, lv := PerLine.fill none, obs := .allUnknown }

/-- Which lines are held after an event. -/
def heldAfter (held : PerLine Bool) : Event → PerLine Bool
  | .acquire l .ok => held.set l true
  | .acquire _ .unavailable => held
  | .release l => held.set l false
  | .setOutput _ _ => held
  | .set _ _ => held
  | .delayShort => held
  | .log _ _ => held
  | .sleep _ => held

/-- The levels driven after an event (10_state.md R24). -/
def levelsAfter (lv : PerLine (Option Bool)) : Event → PerLine (Option Bool)
  | .setOutput l b => lv.set l (some b)
  | .set l b => lv.set l (some b)
  | .release l => lv.set l none
  | .acquire _ _ => lv
  | .delayShort => lv
  | .log _ _ => lv
  | .sleep _ => lv

/-- The view after one more event. -/
def see (v : LineView) (e : Event) : LineView :=
  { held := heldAfter v.held e, lv := levelsAfter v.lv e, obs := observe v.lv e v.obs }

/-- The view of a whole trace. -/
def viewOf (trace : List Event) : LineView := trace.foldl see .empty

/-- A GPIO call is legal: a line is acquired only while not held, and every other call is on a held line ("do not
attempt to touch unheld lines", 60_exceptions.md R170(e)). -/
def callLegal (v : LineView) : Event → Bool
  | .acquire l .ok => !v.held.get l
  | .acquire l .unavailable => !v.held.get l
  | .setOutput l _ => v.held.get l
  | .set l _ => v.held.get l
  | .release l => v.held.get l
  | .delayShort => true
  | .log _ _ => true
  | .sleep _ => true

/-- Every call of a trace is legal, from the view `v` on. -/
def legalFrom : LineView → List Event → Bool
  | _, [] => true
  | v, e :: es => callLegal v e && legalFrom (see v e) es

/-- Which lines a block holds. -/
def heldLines (h : PerLine (Option Handle)) : PerLine Bool := ⟨h.data.isSome, h.clock.isSome, h.latch.isSome⟩

/-! ### Invariants -/

/-- `drv = ACTIVE` if and only if the block holds a handle for all three lines; in every other state it holds none
and drives none; in ACTIVE it drives all three; a frame is in progress only in ACTIVE (10_state.md R22 to R24, R28). -/
def LifecycleInv (s : State) : Prop :=
  (s.block.drv = .active → ∀ l, s.block.h.get l ≠ none ∧ s.block.lv.get l ≠ none) ∧
  (s.block.drv ≠ .active → s.NoLine ∧ s.block.seq = .idle)

/-- Between frames CLOCK and LATCH are low in ACTIVE; before event `k` of a frame of pattern `p` CLOCK is high exactly
when `k` is 5i+3 or 5i+4 for a bit i, LATCH is high exactly when `k` is 42 or 43, and from event 1 on DATA is at the
bit last written (41_serializer.md R96, R97, R101). -/
def WireInv (s : State) : Prop :=
  s.block.drv = .active →
    match s.block.seq with
    | .idle => s.block.lv.clock = some false ∧ s.block.lv.latch = some false
    | .inWrite d k =>
      s.block.lv.clock = some (decide (k.val < 40 ∧ 3 ≤ k.val % 5)) ∧
      s.block.lv.latch = some (decide (42 ≤ k.val)) ∧
      (1 ≤ k.val → s.block.lv.data = some (patternBit (memReadSeg d) (min (k.val - 1) 39 / 5)))

/-- While the next event is event `k` of a frame, the trace ends in that frame's first `k` events (10_state.md R28,
41_serializer.md R98, R103). -/
def FrameInv (s : State) : Prop :=
  match s.block.seq with
  | .idle => True
  | .inWrite d k => (frameEvents (memReadSeg d)).take k.val <:+ s.block.trace

/-- The trace accounts for the lines: every GPIO call in it is legal, and the lines held, the levels driven and the
observer are what its events make of them (10_state.md R23, R24, R27, 60_exceptions.md R170, R171). -/
def ReplayInv (s : State) : Prop :=
  legalFrom .empty s.block.trace = true ∧
  viewOf s.block.trace = { held := heldLines s.block.h, lv := s.block.lv, obs := s.obs }

/-- At most one mark is set, never during a frame, and a usage fault's kind fits the lifecycle it was raised in
(60_exceptions.md R163, R164). -/
def MarkInv (s : State) : Prop :=
  (s.block.fault = none ∨ s.block.refused = none) ∧
  (s.block.fault ≠ none ∨ s.block.refused ≠ none → s.block.seq = .idle) ∧
  (s.block.fault = some .notInitialized → s.block.drv = .uninit) ∧
  (s.block.fault = some .afterTeardown → s.block.drv = .released) ∧
  (s.block.fault = some .initAgain → s.block.drv ≠ .uninit)

/-- The channel: the buffer is in canonical form and within the capacity, and the cursor never exceeds the capacity
(45_host_command_path.md R136, R142). -/
def ChannelInv (s : State) : Prop :=
  Memory.wf s.host.buf ∧ (∀ c ∈ s.host.buf, c.1 < s.cfg.cap) ∧ s.host.cursor ≤ s.cfg.cap

/-- Every operation word that an accept in progress has still to issue is a WRITE_DIGIT word
(45_host_command_path.md R130). -/
def CallInv (s : State) : Prop :=
  match s.host.call with
  | .idle => True
  | .running todo _ => ∀ w, HostAction.issue w ∈ todo → ∃ d, decode w = .ok (.writeDigit d)

/-- Both registers of the observer have eight cells (60_exceptions.md R171). -/
def ObserverInv (s : State) : Prop := s.obs.sr.length = 8 ∧ s.obs.st.length = 8

/-! ### What a display shows (60_exceptions.md R172) -/

/-- The parallel outputs that spell a pattern: Q_A = p[7], ..., Q_H = p[0]. -/
def outputsOf (p : Byte) : List ObsCell := (List.range 8).map fun j => .known (patternBit p (7 - j))

/-- Whether an event changes a line's ownership or direction. -/
def changesOwnership : Event → Bool
  | .acquire _ _ => true
  | .setOutput _ _ => true
  | .release _ => true
  | .set _ _ => false
  | .delayShort => false
  | .log _ _ => false
  | .sleep _ => false

/-- Whether an event drives a line's level. -/
def drivesLine : Event → Bool
  | .setOutput _ _ => true
  | .set _ _ => true
  | .acquire _ _ => false
  | .release _ => false
  | .delayShort => false
  | .log _ _ => false
  | .sleep _ => false

/-- Whether an event is a diagnostic. -/
def isLog : Event → Bool
  | .log _ _ => true
  | .acquire _ _ => false
  | .setOutput _ _ => false
  | .set _ _ => false
  | .release _ => false
  | .delayShort => false
  | .sleep _ => false

/-! ### What the service answers, and what a token is worth -/

/-- The first line, in the order DATA, CLOCK, LATCH, whose acquisition the service answers with Unavailable
(41_serializer.md R91). -/
def firstUnavailable (answers : PerLine Answer) : Option Line :=
  [Line.data, .clock, .latch].find? fun l => answers.get l = .unavailable

/-- Whether a token is a hex literal (45_host_command_path.md R123(d)). -/
def isHexToken (t : List Byte) : Bool :=
  match classify t with
  | .hexLiteral _ => true
  | .displayFlag => false
  | .countdownFlag => false
  | .countupFlag => false
  | .ignored => false

/-- The value a token resolves to, if it is a hex literal that parses (45_host_command_path.md R125, R126). -/
def tokenValue (limit : Option Nat) (t : List Byte) : Option Nat :=
  match classify t with
  | .hexLiteral v => hexValue limit v
  | .displayFlag => none
  | .countdownFlag => none
  | .countupFlag => none
  | .ignored => none

/-! ### What an expansion emits (45_host_command_path.md R131 to R135) -/

/-- The trace of a count-down from `v` in ACTIVE: the frames of `v` down to 0, a sleep between two of them. -/
def countDownTrace : Nat → List Event
  | 0 => frameEvents (memReadSeg 0)
  | v + 1 => frameEvents (memReadSeg (BitVec.ofNat 4 (v + 1))) ++ .sleep 1 :: countDownTrace v

/-- The trace of a count-up in ACTIVE: the frames of `n + 1` digits from `v` up, a sleep between two of them. -/
def countUpTrace : Nat → Nat → List Event
  | 0, v => frameEvents (memReadSeg (BitVec.ofNat 4 v))
  | n + 1, v => frameEvents (memReadSeg (BitVec.ofNat 4 v)) ++ .sleep 1 :: countUpTrace n (v + 1)

end Sys2Proof.Machine
end

