-- ==== Sys2Proof/Laws/State.lean ====
section
/-! SUPPORT. What each update of one field leaves in every field: one lemma per field per update. -/

namespace Sys2Proof.Machine

/-! ### setDrv -/

@[simp] theorem setDrv_cfg (v : Lifecycle) (s : State) : (setDrv v s).cfg = s.cfg := rfl
@[simp] theorem setDrv_answers (v : Lifecycle) (s : State) : (setDrv v s).answers = s.answers := rfl
@[simp] theorem setDrv_free (v : Lifecycle) (s : State) : (setDrv v s).free = s.free := rfl
@[simp] theorem setDrv_obs (v : Lifecycle) (s : State) : (setDrv v s).obs = s.obs := rfl
@[simp] theorem setDrv_host (v : Lifecycle) (s : State) : (setDrv v s).host = s.host := rfl
@[simp] theorem setDrv_drv (v : Lifecycle) (s : State) : (setDrv v s).block.drv = v := rfl
@[simp] theorem setDrv_h (v : Lifecycle) (s : State) : (setDrv v s).block.h = s.block.h := rfl
@[simp] theorem setDrv_lv (v : Lifecycle) (s : State) : (setDrv v s).block.lv = s.block.lv := rfl
@[simp] theorem setDrv_trace (v : Lifecycle) (s : State) : (setDrv v s).block.trace = s.block.trace := rfl
@[simp] theorem setDrv_seq (v : Lifecycle) (s : State) : (setDrv v s).block.seq = s.block.seq := rfl
@[simp] theorem setDrv_fault (v : Lifecycle) (s : State) : (setDrv v s).block.fault = s.block.fault := rfl
@[simp] theorem setDrv_refused (v : Lifecycle) (s : State) : (setDrv v s).block.refused = s.block.refused := rfl

/-! ### setHandle -/

@[simp] theorem setHandle_cfg (l : Line) (v : Option Handle) (s : State) : (setHandle l v s).cfg = s.cfg := rfl
@[simp] theorem setHandle_answers (l : Line) (v : Option Handle) (s : State) : (setHandle l v s).answers = s.answers := rfl
@[simp] theorem setHandle_free (l : Line) (v : Option Handle) (s : State) : (setHandle l v s).free = s.free := rfl
@[simp] theorem setHandle_obs (l : Line) (v : Option Handle) (s : State) : (setHandle l v s).obs = s.obs := rfl
@[simp] theorem setHandle_host (l : Line) (v : Option Handle) (s : State) : (setHandle l v s).host = s.host := rfl
@[simp] theorem setHandle_drv (l : Line) (v : Option Handle) (s : State) : (setHandle l v s).block.drv = s.block.drv := rfl
@[simp] theorem setHandle_h (l : Line) (v : Option Handle) (s : State) : (setHandle l v s).block.h = s.block.h.set l v := rfl
@[simp] theorem setHandle_lv (l : Line) (v : Option Handle) (s : State) : (setHandle l v s).block.lv = s.block.lv := rfl
@[simp] theorem setHandle_trace (l : Line) (v : Option Handle) (s : State) : (setHandle l v s).block.trace = s.block.trace := rfl
@[simp] theorem setHandle_seq (l : Line) (v : Option Handle) (s : State) : (setHandle l v s).block.seq = s.block.seq := rfl
@[simp] theorem setHandle_fault (l : Line) (v : Option Handle) (s : State) : (setHandle l v s).block.fault = s.block.fault := rfl
@[simp] theorem setHandle_refused (l : Line) (v : Option Handle) (s : State) : (setHandle l v s).block.refused = s.block.refused := rfl

/-! ### setLevel -/

@[simp] theorem setLevel_cfg (l : Line) (v : Option Bool) (s : State) : (setLevel l v s).cfg = s.cfg := rfl
@[simp] theorem setLevel_answers (l : Line) (v : Option Bool) (s : State) : (setLevel l v s).answers = s.answers := rfl
@[simp] theorem setLevel_free (l : Line) (v : Option Bool) (s : State) : (setLevel l v s).free = s.free := rfl
@[simp] theorem setLevel_obs (l : Line) (v : Option Bool) (s : State) : (setLevel l v s).obs = s.obs := rfl
@[simp] theorem setLevel_host (l : Line) (v : Option Bool) (s : State) : (setLevel l v s).host = s.host := rfl
@[simp] theorem setLevel_drv (l : Line) (v : Option Bool) (s : State) : (setLevel l v s).block.drv = s.block.drv := rfl
@[simp] theorem setLevel_h (l : Line) (v : Option Bool) (s : State) : (setLevel l v s).block.h = s.block.h := rfl
@[simp] theorem setLevel_lv (l : Line) (v : Option Bool) (s : State) : (setLevel l v s).block.lv = s.block.lv.set l v := rfl
@[simp] theorem setLevel_trace (l : Line) (v : Option Bool) (s : State) : (setLevel l v s).block.trace = s.block.trace := rfl
@[simp] theorem setLevel_seq (l : Line) (v : Option Bool) (s : State) : (setLevel l v s).block.seq = s.block.seq := rfl
@[simp] theorem setLevel_fault (l : Line) (v : Option Bool) (s : State) : (setLevel l v s).block.fault = s.block.fault := rfl
@[simp] theorem setLevel_refused (l : Line) (v : Option Bool) (s : State) : (setLevel l v s).block.refused = s.block.refused := rfl

/-! ### setSeq -/

@[simp] theorem setSeq_cfg (v : Seq) (s : State) : (setSeq v s).cfg = s.cfg := rfl
@[simp] theorem setSeq_answers (v : Seq) (s : State) : (setSeq v s).answers = s.answers := rfl
@[simp] theorem setSeq_free (v : Seq) (s : State) : (setSeq v s).free = s.free := rfl
@[simp] theorem setSeq_obs (v : Seq) (s : State) : (setSeq v s).obs = s.obs := rfl
@[simp] theorem setSeq_host (v : Seq) (s : State) : (setSeq v s).host = s.host := rfl
@[simp] theorem setSeq_drv (v : Seq) (s : State) : (setSeq v s).block.drv = s.block.drv := rfl
@[simp] theorem setSeq_h (v : Seq) (s : State) : (setSeq v s).block.h = s.block.h := rfl
@[simp] theorem setSeq_lv (v : Seq) (s : State) : (setSeq v s).block.lv = s.block.lv := rfl
@[simp] theorem setSeq_trace (v : Seq) (s : State) : (setSeq v s).block.trace = s.block.trace := rfl
@[simp] theorem setSeq_seq (v : Seq) (s : State) : (setSeq v s).block.seq = v := rfl
@[simp] theorem setSeq_fault (v : Seq) (s : State) : (setSeq v s).block.fault = s.block.fault := rfl
@[simp] theorem setSeq_refused (v : Seq) (s : State) : (setSeq v s).block.refused = s.block.refused := rfl

/-! ### raiseUsageFault -/

@[simp] theorem raiseUsageFault_cfg (k : UsageKind) (s : State) : (raiseUsageFault k s).cfg = s.cfg := rfl
@[simp] theorem raiseUsageFault_answers (k : UsageKind) (s : State) : (raiseUsageFault k s).answers = s.answers := rfl
@[simp] theorem raiseUsageFault_free (k : UsageKind) (s : State) : (raiseUsageFault k s).free = s.free := rfl
@[simp] theorem raiseUsageFault_obs (k : UsageKind) (s : State) : (raiseUsageFault k s).obs = s.obs := rfl
@[simp] theorem raiseUsageFault_host (k : UsageKind) (s : State) : (raiseUsageFault k s).host = s.host := rfl
@[simp] theorem raiseUsageFault_drv (k : UsageKind) (s : State) : (raiseUsageFault k s).block.drv = s.block.drv := rfl
@[simp] theorem raiseUsageFault_h (k : UsageKind) (s : State) : (raiseUsageFault k s).block.h = s.block.h := rfl
@[simp] theorem raiseUsageFault_lv (k : UsageKind) (s : State) : (raiseUsageFault k s).block.lv = s.block.lv := rfl
@[simp] theorem raiseUsageFault_trace (k : UsageKind) (s : State) : (raiseUsageFault k s).block.trace = s.block.trace := rfl
@[simp] theorem raiseUsageFault_seq (k : UsageKind) (s : State) : (raiseUsageFault k s).block.seq = s.block.seq := rfl
@[simp] theorem raiseUsageFault_fault (k : UsageKind) (s : State) : (raiseUsageFault k s).block.fault = some k := rfl
@[simp] theorem raiseUsageFault_refused (k : UsageKind) (s : State) : (raiseUsageFault k s).block.refused = s.block.refused := rfl

/-! ### refuseIllegal -/

@[simp] theorem refuseIllegal_cfg (w : Byte) (s : State) : (refuseIllegal w s).cfg = s.cfg := rfl
@[simp] theorem refuseIllegal_answers (w : Byte) (s : State) : (refuseIllegal w s).answers = s.answers := rfl
@[simp] theorem refuseIllegal_free (w : Byte) (s : State) : (refuseIllegal w s).free = s.free := rfl
@[simp] theorem refuseIllegal_obs (w : Byte) (s : State) : (refuseIllegal w s).obs = s.obs := rfl
@[simp] theorem refuseIllegal_host (w : Byte) (s : State) : (refuseIllegal w s).host = s.host := rfl
@[simp] theorem refuseIllegal_drv (w : Byte) (s : State) : (refuseIllegal w s).block.drv = s.block.drv := rfl
@[simp] theorem refuseIllegal_h (w : Byte) (s : State) : (refuseIllegal w s).block.h = s.block.h := rfl
@[simp] theorem refuseIllegal_lv (w : Byte) (s : State) : (refuseIllegal w s).block.lv = s.block.lv := rfl
@[simp] theorem refuseIllegal_trace (w : Byte) (s : State) : (refuseIllegal w s).block.trace = s.block.trace := rfl
@[simp] theorem refuseIllegal_seq (w : Byte) (s : State) : (refuseIllegal w s).block.seq = s.block.seq := rfl
@[simp] theorem refuseIllegal_fault (w : Byte) (s : State) : (refuseIllegal w s).block.fault = s.block.fault := rfl
@[simp] theorem refuseIllegal_refused (w : Byte) (s : State) : (refuseIllegal w s).block.refused = some w := rfl

/-! ### emit -/

@[simp] theorem emit_cfg (e : Event) (s : State) : (emit e s).cfg = s.cfg := rfl
@[simp] theorem emit_answers (e : Event) (s : State) : (emit e s).answers = s.answers := rfl
@[simp] theorem emit_free (e : Event) (s : State) : (emit e s).free = s.free := rfl
@[simp] theorem emit_obs (e : Event) (s : State) : (emit e s).obs = observe s.block.lv e s.obs := rfl
@[simp] theorem emit_host (e : Event) (s : State) : (emit e s).host = s.host := rfl
@[simp] theorem emit_drv (e : Event) (s : State) : (emit e s).block.drv = s.block.drv := rfl
@[simp] theorem emit_h (e : Event) (s : State) : (emit e s).block.h = s.block.h := rfl
@[simp] theorem emit_lv (e : Event) (s : State) : (emit e s).block.lv = s.block.lv := rfl
@[simp] theorem emit_trace (e : Event) (s : State) : (emit e s).block.trace = s.block.trace ++ [e] := rfl
@[simp] theorem emit_seq (e : Event) (s : State) : (emit e s).block.seq = s.block.seq := rfl
@[simp] theorem emit_fault (e : Event) (s : State) : (emit e s).block.fault = s.block.fault := rfl
@[simp] theorem emit_refused (e : Event) (s : State) : (emit e s).block.refused = s.block.refused := rfl

/-! ### reply -/

@[simp] theorem reply_cfg (r : Reply) (s : State) : (reply r s).cfg = s.cfg := rfl
@[simp] theorem reply_answers (r : Reply) (s : State) : (reply r s).answers = s.answers := rfl
@[simp] theorem reply_free (r : Reply) (s : State) : (reply r s).free = s.free := rfl
@[simp] theorem reply_obs (r : Reply) (s : State) : (reply r s).obs = s.obs := rfl
@[simp] theorem reply_block (r : Reply) (s : State) : (reply r s).block = s.block := rfl
@[simp] theorem reply_buf (r : Reply) (s : State) : (reply r s).host.buf = s.host.buf := rfl
@[simp] theorem reply_cursor (r : Reply) (s : State) : (reply r s).host.cursor = s.host.cursor := rfl
@[simp] theorem reply_outcome (r : Reply) (s : State) : (reply r s).host.outcome = s.host.outcome := rfl
@[simp] theorem reply_call (r : Reply) (s : State) : (reply r s).host.call = s.host.call := rfl
@[simp] theorem reply_requests (r : Reply) (s : State) : (reply r s).host.requests = s.host.requests := rfl
@[simp] theorem reply_replies (r : Reply) (s : State) : (reply r s).host.replies = s.host.replies ++ [r] := rfl

/-! ### setCall -/

@[simp] theorem setCall_cfg (c : HostCall) (s : State) : (setCall c s).cfg = s.cfg := rfl
@[simp] theorem setCall_answers (c : HostCall) (s : State) : (setCall c s).answers = s.answers := rfl
@[simp] theorem setCall_free (c : HostCall) (s : State) : (setCall c s).free = s.free := rfl
@[simp] theorem setCall_obs (c : HostCall) (s : State) : (setCall c s).obs = s.obs := rfl
@[simp] theorem setCall_block (c : HostCall) (s : State) : (setCall c s).block = s.block := rfl
@[simp] theorem setCall_buf (c : HostCall) (s : State) : (setCall c s).host.buf = s.host.buf := rfl
@[simp] theorem setCall_cursor (c : HostCall) (s : State) : (setCall c s).host.cursor = s.host.cursor := rfl
@[simp] theorem setCall_outcome (c : HostCall) (s : State) : (setCall c s).host.outcome = s.host.outcome := rfl
@[simp] theorem setCall_call (c : HostCall) (s : State) : (setCall c s).host.call = c := rfl
@[simp] theorem setCall_requests (c : HostCall) (s : State) : (setCall c s).host.requests = s.host.requests := rfl
@[simp] theorem setCall_replies (c : HostCall) (s : State) : (setCall c s).host.replies = s.host.replies := rfl

/-! ### setRequests -/

@[simp] theorem setRequests_cfg (rs : List HostRequest) (s : State) : (setRequests rs s).cfg = s.cfg := rfl
@[simp] theorem setRequests_answers (rs : List HostRequest) (s : State) : (setRequests rs s).answers = s.answers := rfl
@[simp] theorem setRequests_free (rs : List HostRequest) (s : State) : (setRequests rs s).free = s.free := rfl
@[simp] theorem setRequests_obs (rs : List HostRequest) (s : State) : (setRequests rs s).obs = s.obs := rfl
@[simp] theorem setRequests_block (rs : List HostRequest) (s : State) : (setRequests rs s).block = s.block := rfl
@[simp] theorem setRequests_buf (rs : List HostRequest) (s : State) : (setRequests rs s).host.buf = s.host.buf := rfl
@[simp] theorem setRequests_cursor (rs : List HostRequest) (s : State) : (setRequests rs s).host.cursor = s.host.cursor := rfl
@[simp] theorem setRequests_outcome (rs : List HostRequest) (s : State) : (setRequests rs s).host.outcome = s.host.outcome := rfl
@[simp] theorem setRequests_call (rs : List HostRequest) (s : State) : (setRequests rs s).host.call = s.host.call := rfl
@[simp] theorem setRequests_requests (rs : List HostRequest) (s : State) : (setRequests rs s).host.requests = rs := rfl
@[simp] theorem setRequests_replies (rs : List HostRequest) (s : State) : (setRequests rs s).host.replies = s.host.replies := rfl

/-! ### setChannel -/

@[simp] theorem setChannel_cfg (m : Memory) (n : Nat) (s : State) : (setChannel m n s).cfg = s.cfg := rfl
@[simp] theorem setChannel_answers (m : Memory) (n : Nat) (s : State) : (setChannel m n s).answers = s.answers := rfl
@[simp] theorem setChannel_free (m : Memory) (n : Nat) (s : State) : (setChannel m n s).free = s.free := rfl
@[simp] theorem setChannel_obs (m : Memory) (n : Nat) (s : State) : (setChannel m n s).obs = s.obs := rfl
@[simp] theorem setChannel_block (m : Memory) (n : Nat) (s : State) : (setChannel m n s).block = s.block := rfl
@[simp] theorem setChannel_buf (m : Memory) (n : Nat) (s : State) : (setChannel m n s).host.buf = m := rfl
@[simp] theorem setChannel_cursor (m : Memory) (n : Nat) (s : State) : (setChannel m n s).host.cursor = n := rfl
@[simp] theorem setChannel_outcome (m : Memory) (n : Nat) (s : State) : (setChannel m n s).host.outcome = s.host.outcome := rfl
@[simp] theorem setChannel_call (m : Memory) (n : Nat) (s : State) : (setChannel m n s).host.call = s.host.call := rfl
@[simp] theorem setChannel_requests (m : Memory) (n : Nat) (s : State) : (setChannel m n s).host.requests = s.host.requests := rfl
@[simp] theorem setChannel_replies (m : Memory) (n : Nat) (s : State) : (setChannel m n s).host.replies = s.host.replies := rfl

/-! ### setOutcome -/

@[simp] theorem setOutcome_cfg (o : ParseOutcome) (s : State) : (setOutcome o s).cfg = s.cfg := rfl
@[simp] theorem setOutcome_answers (o : ParseOutcome) (s : State) : (setOutcome o s).answers = s.answers := rfl
@[simp] theorem setOutcome_free (o : ParseOutcome) (s : State) : (setOutcome o s).free = s.free := rfl
@[simp] theorem setOutcome_obs (o : ParseOutcome) (s : State) : (setOutcome o s).obs = s.obs := rfl
@[simp] theorem setOutcome_block (o : ParseOutcome) (s : State) : (setOutcome o s).block = s.block := rfl
@[simp] theorem setOutcome_buf (o : ParseOutcome) (s : State) : (setOutcome o s).host.buf = s.host.buf := rfl
@[simp] theorem setOutcome_cursor (o : ParseOutcome) (s : State) : (setOutcome o s).host.cursor = s.host.cursor := rfl
@[simp] theorem setOutcome_outcome (o : ParseOutcome) (s : State) : (setOutcome o s).host.outcome = o := rfl
@[simp] theorem setOutcome_call (o : ParseOutcome) (s : State) : (setOutcome o s).host.call = s.host.call := rfl
@[simp] theorem setOutcome_requests (o : ParseOutcome) (s : State) : (setOutcome o s).host.requests = s.host.requests := rfl
@[simp] theorem setOutcome_replies (o : ParseOutcome) (s : State) : (setOutcome o s).host.replies = s.host.replies := rfl

/-! ### Lines -/

@[simp] theorem perLine_get_fill {α : Type} (a : α) (l : Line) : (PerLine.fill a).get l = a := by cases l <;> rfl

@[simp] theorem perLine_get_set_same {α : Type} (p : PerLine α) (l : Line) (a : α) : (p.set l a).get l = a := by
  cases l <;> rfl

theorem perLine_get_set_other {α : Type} (p : PerLine α) {l k : Line} (a : α) (h : k ≠ l) :
    (p.set l a).get k = p.get k := by
  cases l <;> cases k <;> first | rfl | exact absurd rfl h

theorem perLine_ext_get {α : Type} {p q : PerLine α} (h : ∀ l, p.get l = q.get l) : p = q := by
  cases p; cases q
  simp only [PerLine.mk.injEq]
  exact ⟨h .data, h .clock, h .latch⟩

end Sys2Proof.Machine
end

