-- ==== Sys2Proof/Laws/Memory.lean ====
section
/-! SUPPORT. Every operation on the channel's memory keeps its canonical form, and stays within the addresses it is
given (45_host_command_path.md R136). -/

namespace Sys2Proof.Machine

theorem memory_wf_nil : Memory.wf [] := by simp [Memory.wf]

theorem memory_wf_cons {a : Nat} {b : Byte} {m : Memory} :
    Memory.wf ((a, b) :: m) ↔ (∀ c ∈ m, a < c.1) ∧ b ≠ Memory.unlisted ∧ Memory.wf m := by
  simp only [Memory.wf, List.pairwise_cons, List.mem_cons, forall_eq_or_imp]
  tauto

/-- The addresses listed after a write are those listed before and the one written. -/
theorem memory_write_addr (m : Memory) (x : Nat) (v : Byte) :
    ∀ c ∈ Memory.write m x v, c.1 = x ∨ c ∈ m := by
  induction m with
  | nil =>
    intro c hc
    by_cases hv : v = Memory.unlisted
    · simp [Memory.write, hv] at hc
    · rw [Memory.write, if_neg hv, List.mem_singleton] at hc
      exact .inl (by rw [hc])
  | cons p m ih =>
    obtain ⟨a, b⟩ := p
    intro c hc
    rw [Memory.write] at hc
    split at hc
    · split at hc
      · exact .inr hc
      · rcases List.mem_cons.mp hc with h | h
        · exact .inl (by rw [h])
        · exact .inr h
    · split at hc
      · split at hc
        · exact .inr (List.mem_cons_of_mem _ hc)
        · rcases List.mem_cons.mp hc with h | h
          · exact .inl (by rw [h])
          · exact .inr (List.mem_cons_of_mem _ h)
      · rcases List.mem_cons.mp hc with h | h
        · exact .inr (by rw [h]; exact List.mem_cons_self)
        · exact (ih c h).imp id (List.mem_cons_of_mem _)

theorem memory_write_wf (m : Memory) (x : Nat) (v : Byte) (h : Memory.wf m) : Memory.wf (Memory.write m x v) := by
  induction m with
  | nil =>
    by_cases hv : v = Memory.unlisted
    · rw [Memory.write, if_pos hv]
      exact memory_wf_nil
    · rw [Memory.write, if_neg hv]
      exact memory_wf_cons.mpr ⟨by simp, hv, memory_wf_nil⟩
  | cons p m ih =>
    obtain ⟨a, b⟩ := p
    obtain ⟨hlt, hb, hm⟩ := memory_wf_cons.mp h
    rw [Memory.write]
    split
    · rename_i hxa
      split
      · exact h
      · rename_i hv
        refine memory_wf_cons.mpr ⟨fun c hc => ?_, hv, h⟩
        rcases List.mem_cons.mp hc with rfl | hc
        · exact hxa
        · exact lt_trans hxa (hlt c hc)
    · rename_i hxa
      split
      · rename_i hx
        split
        · exact hm
        · rename_i hv
          exact memory_wf_cons.mpr ⟨fun c hc => hx ▸ hlt c hc, hv, hm⟩
      · rename_i hx
        refine memory_wf_cons.mpr ⟨fun c hc => ?_, hb, ih hm⟩
        rcases memory_write_addr m x v c hc with hcx | hc
        · omega
        · exact hlt c hc

theorem memory_writeBytes_wf (m : Memory) (x : Nat) (vs : List Byte) (h : Memory.wf m) :
    Memory.wf (Memory.writeBytes m x vs) := by
  induction vs generalizing m x with
  | nil => exact h
  | cons v vs ih => exact ih _ _ (memory_write_wf m x v h)

/-- The addresses listed after a copy are those listed before and those of the copied range. -/
theorem memory_writeBytes_addr (m : Memory) (x : Nat) (vs : List Byte) :
    ∀ c ∈ Memory.writeBytes m x vs, (x ≤ c.1 ∧ c.1 < x + vs.length) ∨ c ∈ m := by
  induction vs generalizing m x with
  | nil => exact fun c hc => .inr hc
  | cons v vs ih =>
    intro c hc
    simp only [List.length_cons]
    rcases ih _ _ c hc with h | h
    · exact .inl (by omega)
    · rcases memory_write_addr m x v c h with h | h
      · exact .inl (by omega)
      · exact .inr h

theorem memory_cleared_wf : Memory.wf Memory.cleared := memory_wf_nil

theorem memory_anyBytes_wf (n k : Nat) : Memory.wf (Memory.anyBytes n k) :=
  memory_writeBytes_wf _ _ _ memory_cleared_wf

theorem memory_anyBytes_addr (n k : Nat) : ∀ c ∈ Memory.anyBytes n k, c.1 < n := by
  intro c hc
  rcases memory_writeBytes_addr _ _ _ c hc with h | h
  · simpa using h.2
  · simp [Memory.cleared] at h

theorem reset_memory_wf : Memory.wf State.reset.host.buf := memory_wf_nil

end Sys2Proof.Machine
end

