-- ==== Sys2Proof/Laws/Ops.lean ====
section
/-! SUPPORT. For each shared operation, once, everything it can do. -/

namespace Sys2Proof.Machine

/-! ### Marks and readiness -/

theorem markStop_eq_none (s : State) : markStop s = none ↔ s.Unmarked := by
  unfold markStop State.Unmarked
  cases s.block.fault <;> cases s.block.refused <;> simp

theorem opStop_eq_none (s : State) : opStop s = none ↔ s.Ready := by
  have h := markStop_eq_none s
  unfold opStop State.Ready
  cases hm : markStop s with
  | some r => simp_all
  | none =>
    have hu := h.mp hm
    cases hq : s.block.seq with
    | idle => simpa using hu
    | inWrite d k => simp

/-- An operation answers a next state exactly where it may be issued, and that state is its effect. -/
theorem runOp_next_iff (f : State → State) (s t : State) : runOp f s = .next t ↔ s.Ready ∧ t = f s := by
  have h := opStop_eq_none s
  unfold runOp
  cases ho : opStop s with
  | some r => simp_all
  | none =>
    constructor
    · rintro ⟨⟩
      exact ⟨h.mp ho, rfl⟩
    · rintro ⟨-, rfl⟩
      rfl

theorem runOp_of_ready (f : State → State) {s : State} (h : s.Ready) : runOp f s = .next (f s) :=
  (runOp_next_iff f s _).mpr ⟨h, rfl⟩

/-- An operation never refuses. -/
theorem runOp_not_refused (f : State → State) (s : State) (r : Refusal) : runOp f s ≠ .refused r := by
  unfold runOp
  cases opStop s <;> simp

/-! ### GPIO calls -/

theorem gpioSet_eq (l : Line) (b : Bool) (s : State) :
    gpioSet l b s =
      { s with
        block := { s.block with
          trace := s.block.trace ++ [.set l b], lv := s.block.lv.set l (some b) }
        obs := observe s.block.lv (.set l b) s.obs } := rfl

theorem gpioSetOutput_eq (l : Line) (b : Bool) (s : State) :
    gpioSetOutput l b s =
      { s with
        block := { s.block with
          trace := s.block.trace ++ [.setOutput l b], lv := s.block.lv.set l (some b) }
        obs := .allUnknown } := rfl

theorem gpioAcquired_eq (l : Line) (x : Handle) (s : State) :
    gpioAcquired l x s =
      { s with
        block := { s.block with
          trace := s.block.trace ++ [.acquire l .ok], h := s.block.h.set l (some x) }
        obs := .allUnknown } := rfl

theorem gpioRelease_eq (l : Line) (s : State) :
    gpioRelease l s =
      { s with
        block := { s.block with
          trace := s.block.trace ++ [.release l], h := s.block.h.set l none, lv := s.block.lv.set l none }
        obs := .allUnknown } := rfl

/-! ### Several events -/

theorem emitAll_trace (es : List Event) (s : State) : (emitAll es s).block.trace = s.block.trace ++ es := by
  induction es generalizing s with
  | nil => simp [emitAll]
  | cons e es ih => simp [emitAll, ih]

/-- Diagnostics touch the trace alone. -/
theorem emitAll_logs (es : List Event) (h : ∀ e ∈ es, isLog e = true) (s : State) :
    emitAll es s = { s with block := { s.block with trace := s.block.trace ++ es } } := by
  induction es generalizing s with
  | nil => simp [emitAll]
  | cons e es ih =>
    have he : isLog e = true := h e List.mem_cons_self
    rw [emitAll, ih (fun e he => h e (List.mem_cons_of_mem _ he))]
    cases e <;> simp_all [emit, observe, isLog]

theorem scanLogs_isLog (r : Scan) : ∀ e ∈ scanLogs r, isLog e = true := by
  intro e he
  obtain ⟨t, -, rfl⟩ := List.mem_map.mp he
  rfl

/-! ### The frame -/

/-- Every event of a frame is a `Set` or a `Delay`. -/
theorem frameEvent_cases (p : Byte) (k : Nat) :
    frameEvent p k = .delayShort ∨ ∃ l b, frameEvent p k = .set l b := by
  unfold frameEvent
  split_ifs <;> simp

/-- What one event of a frame does: the trace, the levels, the observer, and nothing else. -/
theorem frameAct_eq (p : Byte) (k : Nat) (s : State) :
    frameAct (frameEvent p k) s =
      { s with
        block := { s.block with
          trace := s.block.trace ++ [frameEvent p k], lv := levelsAfter s.block.lv (frameEvent p k) }
        obs := observe s.block.lv (frameEvent p k) s.obs } := by
  rcases frameEvent_cases p k with h | ⟨l, b, h⟩ <;> rw [h] <;> rfl

/-! ### Steps -/

/-- A step answers a next state in one of two ways: the next event of a frame, or the host's turn. -/
theorem step_next_cases {s t : State} (h : step s = .next t) :
    s.Unmarked ∧
      ((∃ d k, s.block.seq = .inWrite d k ∧ t = writeEvent d k s) ∨
        (s.block.seq = .idle ∧ hostStep s = .next t)) := by
  unfold step machineStep at h
  cases hm : markStop s with
  | some r => simp [hm] at h
  | none =>
    refine ⟨(markStop_eq_none s).mp hm, ?_⟩
    rw [hm] at h
    cases hq : s.block.seq with
    | idle => exact .inr ⟨rfl, by simpa [hq] using h⟩
    | inWrite d k => exact .inl ⟨d, k, rfl, by simpa [hq] using h.symm⟩

/-- A word issued to a block that may take it runs its operation's effect, or sets the refusal mark. -/
theorem issueWord_next_cases {w : Byte} {s t : State} (h : issueWord w s = .next t) :
    (∃ i, decode w = .ok i ∧ exec i s = .next t) ∨ (∃ r, decode w = .error r ∧ t = refuseIllegal w s) := by
  unfold issueWord at h
  cases hd : decode w with
  | ok i => exact .inl ⟨i, rfl, by simpa [hd] using h⟩
  | error r => exact .inr ⟨r, rfl, by simpa [hd] using h.symm⟩

/-- Every operation answers its effect exactly where it may be issued. -/
theorem exec_next_iff (i : Instr) (s t : State) :
    exec i s = .next t ↔ s.Ready ∧ t = (match i with
      | .init => initEffect s
      | .writeDigit d => writeDigitEffect d s
      | .teardown => teardownEffect s
      | .encode d => encodeEffect d s) := by
  cases i <;> exact runOp_next_iff _ _ _

/-- The host's turn, case by case. -/
theorem hostStep_next_cases {s t : State} (h : hostStep s = .next t) :
    (∃ a rest r, s.host.call = .running (a :: rest) r ∧ runAction a (setCall (.running rest r) s) = .next t) ∨
    (∃ r, s.host.call = .running [] r ∧ t = reply r (setCall .idle s)) ∨
    (s.host.call = .idle ∧ s.host.requests = [] ∧ t = s) ∨
    (∃ w rest, s.host.call = .idle ∧ s.host.requests = .word w :: rest ∧
      issueWord w (setRequests rest s) = .next t) ∨
    (∃ o p c rest, s.host.call = .idle ∧ s.host.requests = .accept o p c :: rest ∧
      t = acceptEffect o p c (setRequests rest s)) ∨
    (∃ o n c rest, s.host.call = .idle ∧ s.host.requests = .retrieve o n c :: rest ∧
      t = retrieveEffect o n c (setRequests rest s)) := by
  unfold hostStep continueCall takeRequest at h
  split at h
  · split at h
    · exact .inl ⟨_, _, _, by assumption, h⟩
    · exact .inr (.inl ⟨_, by assumption, by simpa using h.symm⟩)
  · rename_i hc
    split at h
    · exact .inr (.inr (.inl ⟨hc, by assumption, by simpa using h.symm⟩))
    · exact .inr (.inr (.inr (.inl ⟨_, _, hc, by assumption, h⟩)))
    · exact .inr (.inr (.inr (.inr (.inl ⟨_, _, _, _, hc, by assumption, by simpa using h.symm⟩))))
    · exact .inr (.inr (.inr (.inr (.inr ⟨_, _, _, _, hc, by assumption, by simpa using h.symm⟩))))

/-- Where an operation may be issued, a step is the host's turn. -/
theorem step_of_ready {s : State} (h : s.Ready) : step s = hostStep s := by
  unfold step machineStep
  rw [(markStop_eq_none s).mpr h.1, h.2]

/-- With no accept in progress, the host's turn is its next request. -/
theorem step_of_hostTurn {s : State} (h : s.HostTurn) : step s = takeRequest s := by
  rw [step_of_ready h.1, hostStep, h.2]

/-- With an accept in progress, the host's turn is its next action. -/
theorem step_of_running {s : State} {todo : List HostAction} {r : Reply} (h : s.Ready)
    (hc : s.host.call = .running todo r) : step s = continueCall todo r s := by
  rw [step_of_ready h, hostStep, hc]

theorem takeRequest_word {s : State} {w : Byte} {rest : List HostRequest}
    (h : s.host.requests = .word w :: rest) : takeRequest s = issueWord w (setRequests rest s) := by
  rw [takeRequest, h]

theorem takeRequest_accept {s : State} {o : Nat} {p : List Byte} {c : Bool} {rest : List HostRequest}
    (h : s.host.requests = .accept o p c :: rest) :
    takeRequest s = .next (acceptEffect o p c (setRequests rest s)) := by
  rw [takeRequest, h]

theorem takeRequest_retrieve {s : State} {o n : Nat} {c : Bool} {rest : List HostRequest}
    (h : s.host.requests = .retrieve o n c :: rest) :
    takeRequest s = .next (retrieveEffect o n c (setRequests rest s)) := by
  rw [takeRequest, h]

/-- During a frame a step is the frame's next event. -/
theorem step_of_frame {s : State} {d : Digit} {k : Fin 44} (h : s.Unmarked) (hq : s.block.seq = .inWrite d k) :
    step s = .next (writeEvent d k s) := by
  unfold step machineStep
  rw [(markStop_eq_none s).mpr h, hq]

/-! ### Runs -/

theorem run_zero (s : State) : run 0 s = .next s := rfl

theorem run_succ_of_step {s t : State} (n : Nat) (h : step s = .next t) : run (n + 1) s = run n t := by
  have h' : Sys2Proof.core.step s = .next t := h
  simp only [run, Host.Core.run, h']
  rfl

/-- Two runs one after the other. -/
theorem run_add {s t : State} {m : Nat} (n : Nat) (h : run m s = .next t) : run (m + n) s = run n t := by
  induction m generalizing s with
  | zero =>
    rw [run_zero] at h
    cases h
    rw [Nat.zero_add]
  | succ m ih =>
    cases hs : step s with
    | next u =>
      rw [run_succ_of_step m hs] at h
      rw [Nat.succ_add, run_succ_of_step _ hs, ih h]
    | fault r =>
      have hs' : Sys2Proof.core.step s = .fault r := hs
      simp [run, Host.Core.run, hs'] at h
    | refused r =>
      have hs' : Sys2Proof.core.step s = .refused r := hs
      simp [run, Host.Core.run, hs'] at h

/-! ### Accept: its three outcomes -/

theorem acceptEffect_beyond {offset : Nat} {payload : List Byte} {copyFails : Bool} {s : State}
    (h : s.cfg.cap ≤ offset) : acceptEffect offset payload copyFails s = reply (.outOfSpace offset) s := by
  simp [acceptEffect, h]

theorem acceptEffect_fault {offset : Nat} {payload : List Byte} {s : State} (h : offset < s.cfg.cap)
    (hp : payload ≠ []) : acceptEffect offset payload true s = acceptTransferFault s := by
  have hl := List.length_pos_iff.mpr hp
  have hn : 0 < clampLen s.cfg.cap offset payload.length := by unfold clampLen; omega
  simp [acceptEffect, Nat.not_le.mpr h, hn]

theorem acceptEffect_copies {offset : Nat} {payload : List Byte} {copyFails : Bool} {s : State}
    (h : offset < s.cfg.cap) (hf : copyFails = true → payload = []) :
    acceptEffect offset payload copyFails s =
      let n := clampLen s.cfg.cap offset payload.length
      beginExecution offset n (setChannel (copyIn offset payload n) (offset + n) s) := by
  have hn : ¬(copyFails = true ∧ 0 < clampLen s.cfg.cap offset payload.length) := by
    rintro ⟨hc, hn⟩
    simp [hf hc, clampLen] at hn
  simp only [acceptEffect, if_neg (Nat.not_le.mpr h), if_neg hn]

end Sys2Proof.Machine
end

