-- ==== Sys2Proof/Laws/Steps.lean ====
section
/-! SUPPORT. What one step can do to the block, the observer and the parameters, said once. -/

namespace Sys2Proof.Machine

/-- The two states differ at most in the host's part and the count of free bytes. -/
abbrev SameBlock (s t : State) : Prop :=
  t.cfg = s.cfg ∧ t.answers = s.answers ∧ t.block = s.block ∧ t.obs = s.obs

/-- An event of the host, which concerns no line: a diagnostic or a sleep. -/
abbrev IsHostEvent (e : Event) : Prop := (∃ c i, e = .log c i) ∨ ∃ n, e = .sleep n

/-- The observer does not see the host's events. -/
theorem observe_hostEvent {e : Event} (h : IsHostEvent e) (lv : PerLine (Option Bool)) (o : Observer) :
    observe lv e o = o := by
  rcases h with ⟨c, i, rfl⟩ | ⟨n, rfl⟩ <;> rfl

/-- Accept and retrieve reach the block only through the trace, with diagnostics. -/
theorem acceptEffect_block (offset : Nat) (payload : List Byte) (copyFails : Bool) (s : State) :
    ∃ es, (∀ e ∈ es, IsHostEvent e) ∧ (acceptEffect offset payload copyFails s).cfg = s.cfg ∧
      (acceptEffect offset payload copyFails s).answers = s.answers ∧
      (acceptEffect offset payload copyFails s).block = { s.block with trace := s.block.trace ++ es } ∧
      (acceptEffect offset payload copyFails s).obs = s.obs := by
  simp only [acceptEffect]
  split_ifs
  · exact ⟨[], by simp, rfl, rfl, by simp, rfl⟩
  · exact ⟨[], by simp, rfl, rfl, by simp [acceptTransferFault], rfl⟩
  · simp only [beginExecution]
    rw [emitAll_logs _ (scanLogs_isLog _)]
    refine ⟨_, fun e he => ?_, rfl, rfl, rfl, rfl⟩
    obtain ⟨t, -, rfl⟩ := List.mem_map.mp he
    exact .inl ⟨_, _, rfl⟩

theorem retrieveEffect_block (offset maxLen : Nat) (copyFails : Bool) (s : State) :
    SameBlock s (retrieveEffect offset maxLen copyFails s) := by
  unfold retrieveEffect
  split_ifs <;> exact ⟨rfl, rfl, rfl, rfl⟩

/-- The word an accept in progress issues next is the one whose operation the step runs. -/
theorem nextInstr_of_call {s : State} {w : Byte} {i : Instr} {todo : List HostAction} {r : Reply}
    (hc : s.host.call = .running (.issue w :: todo) r) (hd : decode w = .ok i) : s.nextInstr = some i := by
  simp [State.nextInstr, hc, hd, decodedInstr]

/-- The word at the head of the requests is the one whose operation the step runs at the host's turn. -/
theorem nextInstr_of_request {s : State} {w : Byte} {i : Instr} {rest : List HostRequest}
    (hc : s.host.call = .idle) (hr : s.host.requests = .word w :: rest) (hd : decode w = .ok i) :
    s.nextInstr = some i := by
  simp [State.nextInstr, hc, hr, hd, decodedInstr]

/-- What one step does to the block: the next event of its frame; the effect of the operation issued next; the refusal
of one word; or nothing but the host's events in its trace. -/
theorem step_block_cases {s t : State} (h : step s = .next t) :
    s.Unmarked ∧
      ((∃ d k, s.block.seq = .inWrite d k ∧ t = writeEvent d k s) ∨
       (s.block.seq = .idle ∧ ∃ i u, s.nextInstr = some i ∧ SameBlock s u ∧ exec i u = .next t) ∨
       (s.block.seq = .idle ∧ ∃ w u, SameBlock s u ∧ t = refuseIllegal w u) ∨
       (s.block.seq = .idle ∧ ∃ es, (∀ e ∈ es, IsHostEvent e) ∧ t.cfg = s.cfg ∧ t.answers = s.answers ∧
          t.block = { s.block with trace := s.block.trace ++ es } ∧ t.obs = s.obs)) := by
  obtain ⟨hu, hf | ⟨hq, hh⟩⟩ := step_next_cases h
  · exact ⟨hu, .inl hf⟩
  refine ⟨hu, .inr ?_⟩
  have word : ∀ w u, SameBlock s u → (∀ i, decode w = .ok i → s.nextInstr = some i) → issueWord w u = .next t →
      (∃ i u, s.nextInstr = some i ∧ SameBlock s u ∧ exec i u = .next t) ∨
        ∃ w u, SameBlock s u ∧ t = refuseIllegal w u := by
    intro w u hs hn hw
    rcases issueWord_next_cases hw with ⟨i, hd, hi⟩ | ⟨r, -, hr⟩
    · exact .inl ⟨i, u, hn i hd, hs, hi⟩
    · exact .inr ⟨w, u, hs, hr⟩
  have silent : ∀ u, SameBlock s u → ∃ es, (∀ e ∈ es, IsHostEvent e) ∧ u.cfg = s.cfg ∧ u.answers = s.answers ∧
      u.block = { s.block with trace := s.block.trace ++ es } ∧ u.obs = s.obs :=
    fun u ⟨h1, h2, h3, h4⟩ => ⟨[], by simp, h1, h2, by simp [h3], h4⟩
  rcases hostStep_next_cases hh with ⟨a, rest, r, hc, ha⟩ | ⟨r, -, rfl⟩ | ⟨-, -, rfl⟩ | ⟨w, rest, hc, hr, hw⟩ |
    ⟨o, p, c, rest, -, -, rfl⟩ | ⟨o, n, c, rest, -, -, rfl⟩
  · cases a with
    | issue w =>
      rcases word w (setCall (.running rest r) s) ⟨rfl, rfl, rfl, rfl⟩ (fun _ => nextInstr_of_call hc) ha with h1 | h1
      · exact .inl ⟨hq, h1⟩
      · exact .inr (.inl ⟨hq, h1⟩)
    | sleep =>
      cases ha
      exact .inr (.inr ⟨hq, [.sleep Config.tCount], by simp [IsHostEvent], rfl, rfl, rfl, rfl⟩)
    | log c i =>
      cases ha
      exact .inr (.inr ⟨hq, [.log c i], by simp [IsHostEvent], rfl, rfl, rfl, rfl⟩)
  · exact .inr (.inr ⟨hq, silent _ ⟨rfl, rfl, rfl, rfl⟩⟩)
  · exact .inr (.inr ⟨hq, silent _ ⟨rfl, rfl, rfl, rfl⟩⟩)
  · rcases word w (setRequests rest s) ⟨rfl, rfl, rfl, rfl⟩ (fun _ => nextInstr_of_request hc hr) hw with h1 | h1
    · exact .inl ⟨hq, h1⟩
    · exact .inr (.inl ⟨hq, h1⟩)
  · exact .inr (.inr ⟨hq, acceptEffect_block o p c (setRequests rest s)⟩)
  · exact .inr (.inr ⟨hq, silent _ (retrieveEffect_block o n c (setRequests rest s))⟩)

end Sys2Proof.Machine
end

