-- ==== Sys2Proof/Laws/PerInstr.lean ====
section
/-! SUPPORT. Statements made once for each operation, as syntax. -/

namespace Sys2Proof.Laws

/-- The word of an operation lies in its own row of the opcode map, and in no other row (30_encoding.md R70). -/
def OwnRow.Statement (i : Instr) : Prop :=
  (opcodeMap.filter fun r => rowMatches r (encode i)).map OpcodeRow.mnemonic = [i.toAsm.mnemonic]

theorem OwnRow.init : OwnRow.Statement .init := by unfold OwnRow.Statement; decide

theorem OwnRow.writeDigit (d : Digit) : OwnRow.Statement (.writeDigit d) := by
  unfold OwnRow.Statement; revert d; decide

theorem OwnRow.teardown : OwnRow.Statement .teardown := by unfold OwnRow.Statement; decide

theorem OwnRow.encode (d : Digit) : OwnRow.Statement (.encode d) := by
  unfold OwnRow.Statement; revert d; decide

end Sys2Proof.Laws
end

