-- ==== Sys2Proof/Certificates/Slice0/Obligations.lean ====
section
/-! DEFINITION. The statements for the provers. -/

open Sys2Proof Sys2Proof.Machine

/-! ### Encoding (30_encoding.md) -/

/-- Decode and encode agree: every operation's word decodes to it, with every operand, and a word that decodes to an
operation is that operation's word (30_encoding.md R60 to R64; the encoding is the spec's own, 92_eei_decisions.md
D2). -/
def Obligations.DecodeEncodeAgree : Prop :=
  (∀ i, decode (encode i) = .ok i) ∧ ∀ w i, decode w = .ok i → encode i = w

/-- The words that decode are exactly 0x00, 0x40 to 0x4F, 0x80 and 0xC0 to 0xCF, 34 of the 256 (30_encoding.md R63,
92_eei_decisions.md D3). -/
def Obligations.LegalWordsAreThirtyFour : Prop :=
  (∀ w : Byte, decodedInstr (decode w) ≠ none ↔
    w = 0x00#8 ∨ (0x40#8 ≤ w ∧ w ≤ 0x4F#8) ∨ w = 0x80#8 ∨ (0xC0#8 ≤ w ∧ w ≤ 0xCF#8)) ∧
  ((List.range 256).filter fun n => decodedInstr (decode (BitVec.ofNat 8 n)) ≠ none).length = 34

/-- Decoding follows the opcode map: a word that decodes to an operation matches the row of that operation's mnemonic
and no other, and its operand is as the row says, d = w[3:0] for WRITE_DIGIT and ENCODE and none for INIT and TEARDOWN; a
word is illegal exactly when it matches no row (30_encoding.md R64, R70; 92_eei_decisions.md D2, D3). -/
def Obligations.DecodeFollowsOpcodeMap : Prop :=
  ∀ w : Byte,
    (∀ i, decode w = .ok i →
      (opcodeMap.filter fun r => rowMatches r w).map OpcodeRow.mnemonic = [i.toAsm.mnemonic] ∧
      i.toAsm.operand =
        match i.toAsm.mnemonic with
        | .writeDigit => some (w.toNat % 16)
        | .encode => some (w.toNat % 16)
        | .init => none
        | .teardown => none) ∧
    (opcodeMap.all (fun r => !rowMatches r w) = true ↔ decodedInstr (decode w) = none)

/-- A few words written out from the encoding: INIT 00000000, WRITE_DIGIT 0101 = 01000101, TEARDOWN 10000000,
ENCODE 1111 = 11001111; and three illegal ones. -/
def Obligations.WrittenWordsDecode : Prop :=
  decode 0b00000000#8 = .ok .init ∧
  decode 0b01000101#8 = .ok (.writeDigit 5#4) ∧
  decode 0b10000000#8 = .ok .teardown ∧
  decode 0b11001111#8 = .ok (.encode 15#4) ∧
  decode 0b01010000#8 = .error (.reservedBits 0x50#8) ∧
  decode 0b00000001#8 = .error (.operandNotZero 0x01#8) ∧
  decode 0b10001111#8 = .error (.operandNotZero 0x8F#8)

/-- The well-formed assembler terms are exactly the terms of the operations (30_encoding.md R68; 92_eei_decisions.md
D2). -/
def Obligations.AsmTermsAreTheOperations : Prop :=
  (∀ t i, asmToInstr t = some i ↔ t = i.toAsm) ∧
  ∀ t : AsmTerm, t.wellFormed = true ↔ ∃ i : Instr, t = i.toAsm

/-- The text of every operation assembles to it, with the digit in decimal and in the hexadecimal spelling
(30_encoding.md R68; the exact grammar is assumption 17's). -/
def Obligations.AssemblerReadsOperationText : Prop :=
  (∀ i, assemble (asmText i) = some i) ∧
  ∀ d : Digit,
    assemble (mnemonicText .writeDigit ++ ' ' :: hexSpellings.getD d.toNat []) = some (.writeDigit d) ∧
    assemble (mnemonicText .encode ++ ' ' :: hexSpellings.getD d.toNat []) = some (.encode d)

/-! ### A step of the machine -/

/-- A step runs the decoded operation: at the host's turn the next issued word's operation, on the state without that
request; and in an accept the word the controller issues next, on the state without that action. -/
def Obligations.StepRunsDecodedWord : Prop :=
  ∀ s w i, decode w = .ok i →
    (∀ rest, s.HostTurn → s.host.requests = .word w :: rest →
      step s = exec i { s with host := { s.host with requests := rest } }) ∧
    (∀ todo r, s.Ready → s.host.call = .running (.issue w :: todo) r →
      step s = exec i { s with host := { s.host with call := .running todo r } })

/-- An illegal word sets the refusal mark to that word and changes nothing else, before any lifecycle check
(30_encoding.md R63, 60_exceptions.md R164, R166(b); 92_eei_decisions.md D3). -/
def Obligations.IllegalWordSetsRefusalMark : Prop :=
  ∀ s w r rest, s.HostTurn → s.host.requests = .word w :: rest → decode w = .error r →
    step s = .next { s with
      block := { s.block with refused := some w }
      host := { s.host with requests := rest } }

/-- While a mark is set neither the machine nor any operation has a step (10_state.md R29, 60_exceptions.md R163,
R164; 92_eei_decisions.md D29; that the whole machine stops is assumption 9). -/
def Obligations.MarkedMachineHasNoStep : Prop :=
  ∀ s,
    (∀ k, s.block.fault = some k →
      step s = .fault (.faultMarkSet k) ∧ ∀ i, exec i s = .fault (.faultMarkSet k)) ∧
    (∀ w, s.block.fault = none → s.block.refused = some w →
      step s = .fault (.refusalMarkSet w) ∧ ∀ i, exec i s = .fault (.refusalMarkSet w))

/-- While a frame is in progress no other operation has a step (41_serializer.md R103, 60_exceptions.md R174;
92_eei_decisions.md D31). -/
def Obligations.OperationDuringFrameHasNoStep : Prop :=
  ∀ s d k, s.Unmarked → s.block.seq = .inWrite d k → ∀ i, exec i s = .fault (.operationInProgress d k)

/-- With a frame in progress a step emits its next event, drives the line that event sets, advances the position by
exactly 1 (to Idle after event 43), and changes nothing else but the observer (10_state.md R24, R28;
92_eei_decisions.md D31). -/
def Obligations.FrameStepEmitsNextEvent : Prop :=
  ∀ s d k, s.Unmarked → s.block.seq = .inWrite d k →
    ∃ q,
      step s = .next { s with
        block := { s.block with
          trace := s.block.trace ++ [frameEvent (memReadSeg d) k.val]
          lv := levelsAfter s.block.lv (frameEvent (memReadSeg d) k.val)
          seq := q }
        obs := observe s.block.lv (frameEvent (memReadSeg d) k.val) s.obs } ∧
      (k.val = 43 → q = .idle) ∧ ∀ j : Fin 44, j.val = k.val + 1 → q = .inWrite d j

/-! ### INIT (41_serializer.md R90 to R94) -/

/-- INIT with all three lines available: the lines are acquired, made outputs and driven low, the block is ACTIVE, and
nothing else changes but the observer (41_serializer.md R90, R93; the orders are 92_eei_decisions.md D8 and D9). -/
def Obligations.InitAcquiresAndDrivesLow : Prop :=
  ∀ s a b c, s.Ready → s.block.drv = .uninit → s.answers = ⟨.ok a, .ok b, .ok c⟩ →
    exec .init s = .next { s with
      block := { s.block with
        drv := .active
        h := ⟨some a, some b, some c⟩
        lv := ⟨some false, some false, some false⟩
        trace := s.block.trace ++
          [.acquire .data .ok, .acquire .clock .ok, .acquire .latch .ok,
           .setOutput .data false, .setOutput .clock false, .setOutput .latch false] }
      obs := .allUnknown }

/-- INIT with an unavailable line: the block is INERT and holds and drives no line, exactly one diagnostic is logged,
naming the first failing line, no line is driven, and nothing else changes but the trace and the observer
(41_serializer.md R92, R94(e): a claim states only these). -/
def Obligations.InitFailureLeavesInert : Prop :=
  ∀ s l, s.Ready → s.block.drv = .uninit → s.NoLine → firstUnavailable s.answers = some l →
    ∃ events,
      exec .init s = .next { s with
        block := { s.block with drv := .inert, trace := s.block.trace ++ events }
        obs := .allUnknown } ∧
      events.filter isLog = [.log .configurationError (.line l)] ∧
      ∀ e ∈ events, drivesLine e = false

/-- INIT outside UNINIT sets the fault mark INIT_AGAIN, emits nothing and changes nothing else (41_serializer.md R90,
60_exceptions.md R163; 92_eei_decisions.md D5). -/
def Obligations.InitAgainSetsFaultMark : Prop :=
  ∀ s, s.Ready → s.block.drv ≠ .uninit →
    exec .init s = .next { s with block := { s.block with fault := some .initAgain } }

/-! ### WRITE_DIGIT (41_serializer.md R95 to R103) -/

/-- WRITE_DIGIT in ACTIVE with CLOCK and LATCH low completes: it begins the frame at event 0, and after the 44 steps
that follow the trace has gained exactly the digit's 44 events, DATA is at p[7], CLOCK and LATCH are low, the observer's
outputs spell the pattern whatever they held before, and nothing else has changed (41_serializer.md R98, R101, R102;
60_exceptions.md R172, general knowledge, 92_eei_decisions.md D13, D14, D31). That the issue itself emits nothing and that
44 steps follow is the model's grain, assumption 6. -/
def Obligations.WriteDigitCompletesItsFrame : Prop :=
  ∀ s d, s.Ready → s.block.drv = .active → s.block.lv.clock = some false → s.block.lv.latch = some false →
    ∃ t, exec (.writeDigit d) s = .next t ∧
      t = { s with block := { s.block with seq := .inWrite d 0 } } ∧
      run 44 t = .next { s with
        block := { s.block with
          trace := s.block.trace ++ frameEvents (memReadSeg d)
          lv := ⟨some (patternBit (memReadSeg d) 7), some false, some false⟩ }
        obs := { sr := outputsOf (memReadSeg d), st := outputsOf (memReadSeg d) } }

/-- In INERT, WRITE_DIGIT is a no-op: no event and no state change (41_serializer.md R99). -/
def Obligations.WriteDigitInertIsNoOp : Prop :=
  ∀ s d, s.Ready → s.block.drv = .inert → exec (.writeDigit d) s = .next s

/-- WRITE_DIGIT in UNINIT or RELEASED sets the fault mark, emits nothing and changes nothing else (41_serializer.md
R100, 60_exceptions.md R163; 92_eei_decisions.md D6). -/
def Obligations.WriteDigitOutsideLifetimeSetsFaultMark : Prop :=
  ∀ s d, s.Ready →
    (s.block.drv = .uninit →
      exec (.writeDigit d) s = .next { s with block := { s.block with fault := some .notInitialized } }) ∧
    (s.block.drv = .released →
      exec (.writeDigit d) s = .next { s with block := { s.block with fault := some .afterTeardown } })

/-! ### TEARDOWN (41_serializer.md R104, R105) -/

/-- TEARDOWN in ACTIVE releases each of the three lines once, and the block holds and drives none and is RELEASED;
nothing else changes but the observer (41_serializer.md R104; the order of the releases is 92_eei_decisions.md D10's and
is not claimed). -/
def Obligations.TeardownReleasesTheLines : Prop :=
  ∀ s, s.Ready → s.block.drv = .active →
    ∃ events, events.Perm [.release .data, .release .clock, .release .latch] ∧
      exec .teardown s = .next { s with
        block := { s.block with
          drv := .released
          h := PerLine.fill none
          lv := PerLine.fill none
          trace := s.block.trace ++ events }
        obs := .allUnknown }

/-- TEARDOWN where no line is held emits no event and only enters RELEASED (41_serializer.md R105; 92_eei_decisions.md
D7). -/
def Obligations.TeardownWithoutLinesEmitsNothing : Prop :=
  ∀ s, s.Ready → s.block.drv ≠ .active →
    exec .teardown s = .next { s with block := { s.block with drv := .released } }

/-! ### ENCODE and the segment table (40_encoder.md) -/

/-- ENCODE d in every lifecycle state returns the table's entry and changes nothing else (40_encoder.md R81;
92_eei_decisions.md D33; where the value is returned to is assumption 8). -/
def Obligations.EncodeReturnsTheEntry : Prop :=
  ∀ s d, s.Ready →
    exec (.encode d) s = .next { s with
      host := { s.host with replies := s.host.replies ++ [.pattern (memReadSeg d)] } }

/-- The segment table holds the 16 literals, taken as written (92_eei_decisions.md D35, assumption 2), and the serial
order on DATA of each is its bits from p[0] to p[7], which with the hexadecimal column is the spec's own inference from
the literals (40_encoder.md R80). -/
def Obligations.SegmentTableHoldsTheLiterals : Prop :=
  (List.range 16).map (fun n => memReadSeg (BitVec.ofNat 4 n)) =
    [0x02#8, 0x9E#8, 0x24#8, 0x0C#8, 0x98#8, 0x48#8, 0x40#8, 0x1E#8,
     0x00#8, 0x08#8, 0x10#8, 0xC0#8, 0x62#8, 0x84#8, 0x60#8, 0x70#8] ∧
  ∀ d, (frameEvents (memReadSeg d)).filterMap
      (fun e => match e with | .set .data b => some b | _ => none) =
    (List.range 8).map fun i => (memReadSeg d).getLsbD i

/-- A lookup that takes a wider integer answers the entry for 0 to 15 and refuses every other index (40_encoder.md R82;
92_eei_decisions.md D3). -/
def Obligations.WideLookupRefusesOutsideTable : Prop :=
  (∀ d : Digit, wideLookup (d.toNat : Int) = .ok (memReadSeg d)) ∧
  ∀ index : Int, index < 0 ∨ 15 < index → wideLookup index = .error (.segIndexOutside index)

/-! ### The frame on the wires (20_memory.md R44, 41_serializer.md R96, R97, 70_reset_and_hazards.md) -/

/-- The bit order on the wire is least-significant bit first, across 8 clock pulses, for every pattern (20_memory.md
R44). -/
def Obligations.BitOrderIsLeastSignificantFirst : Prop :=
  ∀ p : Byte,
    (frameEvents p).filterMap (fun e => match e with | .set .data b => some b | _ => none) =
      (List.range 8).map (fun i => p.getLsbD i) ∧
    (frameEvents p).count (.set .clock true) = 8 ∧ (frameEvents p).count (.set .clock false) = 8

/-- The bit cell of each bit i: DATA to (p >> i) & 1, the short delay, CLOCK high, the same delay, CLOCK low; and no
delay before the DATA write of the next cell (41_serializer.md R96). -/
def Obligations.BitCellHoldsItsFiveEvents : Prop :=
  ∀ (p : Byte) (i : Nat), i < 8 →
    ((frameEvents p).drop (5 * i)).take 5 =
      [.set .data (decide ((p >>> i) &&& 1#8 = 1#8)), .delayShort, .set .clock true, .delayShort,
       .set .clock false] ∧
    (i < 7 → (frameEvents p)[5 * i + 5]? = some (.set .data (p.getLsbD (i + 1))))

/-- A frame is eight bit cells in the order bit 0 to bit 7 and one latch pulse, and leaves DATA at p[7]
(30_encoding.md R67). -/
def Obligations.FrameIsEightCellsAndALatchPulse : Prop :=
  ∀ p : Byte,
    frameEvents p = frameLoop p ∧
    frameLoop p =
      (List.range 8).flatMap (fun i =>
        [.set .data (p.getLsbD i), .delayShort, .set .clock true, .delayShort, .set .clock false]) ++
      [.delayShort, .set .latch true, .delayShort, .set .latch false] ∧
    ∀ lv, ((frameEvents p).foldl levelsAfter lv).data = some (p.getLsbD 7)

/-- LATCH rises one short delay after the eighth CLOCK falling edge, stays high for one short delay and then falls, and
no event of LATCH comes before all 8 bits (70_reset_and_hazards.md R187). -/
def Obligations.LatchComesAfterTheLastBit : Prop :=
  ∀ p : Byte,
    (frameEvents p).drop 39 =
      [.set .clock false, .delayShort, .set .latch true, .delayShort, .set .latch false] ∧
    ((frameEvents p).take 40).count (.set .clock false) = 8 ∧
    ∀ b, Event.set .latch b ∉ (frameEvents p).take 41

/-- Before every CLOCK rising edge stand the DATA write of its cell and one short delay, and CLOCK stays high for one
short delay before it falls (70_reset_and_hazards.md R185, R186). -/
def Obligations.DataIsSetUpBeforeTheClockRises : Prop :=
  ∀ (p : Byte) (k : Nat), (frameEvents p)[k]? = some (.set .clock true) →
    2 ≤ k ∧ (frameEvents p)[k - 2]? = some (.set .data (p.getLsbD (k / 5))) ∧
    (frameEvents p)[k - 1]? = some .delayShort ∧
    (frameEvents p)[k + 1]? = some .delayShort ∧
    (frameEvents p)[k + 2]? = some (.set .clock false)

/-! ### The observer (60_exceptions.md R171, R172; general knowledge, 92_eei_decisions.md D14) -/

/-- The observer shifts on a CLOCK rising edge, loads its outputs on a LATCH rising edge, knows nothing after a line's
ownership or direction changes, and changes at no other event (60_exceptions.md R171). -/
def Obligations.ObserverFollowsTheEdges : Prop :=
  ∀ (lv : PerLine (Option Bool)) (o : Observer),
    (∀ b, lv.clock = some false → lv.data = some b → o.sr.length = 8 →
      observe lv (.set .clock true) o = { o with sr := .known b :: o.sr.dropLast }) ∧
    (lv.latch = some false → observe lv (.set .latch true) o = { o with st := o.sr }) ∧
    (∀ e, changesOwnership e = true → observe lv e o = .allUnknown) ∧
    (∀ e, changesOwnership e = false →
      ¬(e = .set .clock true ∧ lv.clock = some false) → ¬(e = .set .latch true ∧ lv.latch = some false) →
      observe lv e o = o)

/-- The parallel outputs change only at event 41 of a frame, the LATCH rising edge, or where the step's events change a
line's ownership or direction, after which they are unknown (70_reset_and_hazards.md R192; 92_eei_decisions.md D16). -/
def Obligations.OutputsChangeOnlyAtTheLatch : Prop :=
  ∀ s t, step s = .next t → t.obs.st ≠ s.obs.st →
    (∃ d k, s.block.seq = .inWrite d k ∧ k.val = 41 ∧ t.obs.st = s.obs.sr) ∨
    (∃ events, t.block.trace = s.block.trace ++ events ∧ (∃ e ∈ events, changesOwnership e = true) ∧
      t.obs = .allUnknown)

/-! ### The channel (45_host_command_path.md R136 to R142) -/

/-- A byte read after a byte written: the byte written at its address, the byte held before at every other. -/
def Obligations.ChannelByteReadsBackAsWritten : Prop :=
  ∀ (m : Memory) (x y : Nat) (v : Byte), Memory.wf m →
    Memory.read (Memory.write m x v) y = if y = x then v else Memory.read m y

/-- A successful accept: every byte outside the copied range is 0 and the range holds the payload, clamped to the
capacity; the cursor is behind it; the bytes copied are parsed, each failing token logged once, and the command's
actions wait to run before the count is returned; nothing else changes. An accept of zero bytes succeeds so whatever the
environment says of its copy (45_host_command_path.md R137, R138, R142; 92_eei_decisions.md D24, D25, D36; the step's
grain is assumption 7; that an accept before INIT runs at all is assumption 23). -/
def Obligations.AcceptCopiesClearsAndParses : Prop :=
  ∀ s offset payload fails rest n, s.HostTurn → s.host.requests = .accept offset payload fails :: rest →
    (fails = true → payload = []) → offset < s.cfg.cap → n = min payload.length (s.cfg.cap - offset) →
    ∃ buf,
      step s = .next { s with
        block := { s.block with
          trace := s.block.trace ++
            (scanBytes s.cfg.hexLimit (payload.take n)).failed.map fun t => .log .parseError (.token t) }
        host := { s.host with
          buf := buf
          cursor := offset + n
          outcome := (scanBytes s.cfg.hexLimit (payload.take n)).outcome
          call := .running (expand (parse s.cfg.hexLimit (payload.take n))) (.accepted n)
          requests := rest } } ∧
      ∀ a, Memory.read buf a =
        if offset ≤ a ∧ a < offset + n then payload.getD (a - offset) 0x00#8 else 0x00#8

/-- An accept at or beyond the capacity returns Error(OutOfSpace) and changes nothing, whether or not its copy would
fail (45_host_command_path.md R137, 60_exceptions.md R166(e); where the value goes is assumption 8). -/
def Obligations.AcceptBeyondCapacityReturnsOutOfSpace : Prop :=
  ∀ s offset payload fails rest, s.HostTurn → s.host.requests = .accept offset payload fails :: rest →
    s.cfg.cap ≤ offset →
    step s = .next { s with
      host := { s.host with requests := rest, replies := s.host.replies ++ [.outOfSpace offset] } }

/-- An accept of one byte or more whose copy fails returns Error(TransferFault); the buffer holds some bytes within the
capacity, nothing is said of which; the cursor stays and no parse runs (45_host_command_path.md R141;
92_eei_decisions.md D26; assumptions 4, 5 and 8). -/
def Obligations.AcceptTransferFaultRunsNoParse : Prop :=
  ∀ s offset payload rest, s.HostTurn → s.host.requests = .accept offset payload true :: rest →
    payload ≠ [] → offset < s.cfg.cap →
    ∃ buf drawn,
      step s = .next { s with
        host := { s.host with
          buf := buf, requests := rest, replies := s.host.replies ++ [.transferFault] }
        free := drawn } ∧
      Memory.wf buf ∧ ∀ c ∈ buf, c.1 < s.cfg.cap

/-- A retrieve below the capacity returns the clamped bytes from the offset on and moves the cursor behind them; no
byte changes and no parse runs (45_host_command_path.md R139, R140, R142; 92_eei_decisions.md D25; where the value goes is
assumption 8). -/
def Obligations.RetrieveReturnsTheBufferBytes : Prop :=
  ∀ s offset maxLen rest n, s.HostTurn → s.host.requests = .retrieve offset maxLen false :: rest →
    offset < s.cfg.cap → n = min maxLen (s.cfg.cap - offset) →
    step s = .next { s with
      host := { s.host with
        cursor := offset + n
        requests := rest
        replies := s.host.replies ++
          [.bytes ((List.range n).map fun j => Memory.read s.host.buf (offset + j))] } }

/-- A retrieve at or beyond the capacity returns the empty result, and one below it whose copy fails returns
Error(TransferFault); neither changes anything else (45_host_command_path.md R139, R141; 92_eei_decisions.md D26). The
model's choices: the bound is checked before the copy (assumption 20), a failing copy is reported for zero bytes too
(assumption 5), and where the value goes (assumption 8). -/
def Obligations.RetrieveEndsOrFaultsWithoutEffect : Prop :=
  ∀ s offset maxLen fails rest, s.HostTurn → s.host.requests = .retrieve offset maxLen fails :: rest →
    (s.cfg.cap ≤ offset →
      step s = .next { s with
        host := { s.host with requests := rest, replies := s.host.replies ++ [.bytes []] } }) ∧
    (offset < s.cfg.cap → fails = true →
      step s = .next { s with
        host := { s.host with requests := rest, replies := s.host.replies ++ [.transferFault] } })

/-! ### The parser (45_host_command_path.md R120 to R129) -/

/-- The tokens joined by single spaces are the input, and no token holds a space (45_host_command_path.md R122;
92_eei_decisions.md D23). -/
def Obligations.TokensAreTheInputSplitAtSpaces : Prop :=
  ∀ bytes : List Byte,
    List.intercalate [0x20#8] (tokens bytes) = bytes ∧ ∀ t ∈ tokens bytes, 0x20#8 ∉ t

/-- The class of a token, by exact comparison: the two spellings of each flag; a token that contains "0x" and is at
least 3 bytes long is a hex literal; any other is ignored (45_host_command_path.md R123). -/
def Obligations.TokenClassesByExactComparison : Prop :=
  ∀ t : List Byte,
    (classify t = .displayFlag ↔
      t = ascii ['-', '-', 'd', 'i', 's', 'p', 'l', 'a', 'y'] ∨ t = ascii ['-', 'd']) ∧
    (classify t = .countdownFlag ↔
      t = ascii ['-', '-', 'c', 'o', 'u', 'n', 't', 'd', 'o', 'w', 'n'] ∨ t = ascii ['-', 'l']) ∧
    (classify t = .countupFlag ↔
      t = ascii ['-', '-', 'c', 'o', 'u', 'n', 't', 'u', 'p'] ∨ t = ascii ['-', 'u']) ∧
    ((∃ v, classify t = .hexLiteral v) ↔ ascii ['0', 'x'] <:+: t ∧ 3 ≤ t.length)

/-- The value text of a hex literal is what follows its first "0x" (45_host_command_path.md R124; 92_eei_decisions.md
D21). -/
def Obligations.HexLiteralTextFollowsFirst0x : Prop :=
  ∀ t v : List Byte, classify t = .hexLiteral v ↔
    3 ≤ t.length ∧ ∃ before, t = before ++ ascii ['0', 'x'] ++ v ∧ ¬ascii ['0', 'x'] <:+: before ++ ascii ['0']

/-- A value text parses exactly when, less one trailing LF, it is one or more hex digits whose base-16 value is within
the limit; the value is the sum of its digits times powers of 16 (45_host_command_path.md R125, R143;
92_eei_decisions.md D21, D22). -/
def Obligations.HexValueIsTheBase16Sum : Prop :=
  (∀ b : Byte, hexDigit b =
    ((ascii ['0', '1', '2', '3', '4', '5', '6', '7', '8', '9', 'a', 'b', 'c', 'd', 'e', 'f']).idxOf? b).or
      ((ascii ['0', '1', '2', '3', '4', '5', '6', '7', '8', '9', 'A', 'B', 'C', 'D', 'E', 'F']).idxOf? b)) ∧
  ∀ limit text v, hexValue limit text = some v ↔
    ∃ digits : List Byte, ∃ values : List Nat,
      (text = digits ++ [0x0A#8] ∨ text = digits ∧ digits.getLast? ≠ some 0x0A#8) ∧ digits ≠ [] ∧
      digits.map hexDigit = values.map some ∧ v = Nat.ofDigits 16 values.reverse ∧ ∀ m, limit = some m → v ≤ m

/-- The scan stops at the first token that resolves to a value: later tokens are never seen, every hex literal before
it is a parse error, and the flags before it select the command by the fixed priority; with no such token the command
is NoOption (45_host_command_path.md R126, R128). -/
def Obligations.ParseStopsAtTheFirstValue : Prop :=
  (∀ limit bytes before t later n, tokens bytes = before ++ t :: later →
    (∀ u ∈ before, tokenValue limit u = none) → tokenValue limit t = some n →
    (scanBytes limit bytes).failed = before.filter isHexToken ∧
    parse limit bytes =
      if before.any fun u => classify u = .displayFlag then .display n
      else if before.any fun u => classify u = .countdownFlag then .countDown n
      else if before.any fun u => classify u = .countupFlag then .countUp n
      else .noOption) ∧
  ∀ limit bytes, (∀ u ∈ tokens bytes, tokenValue limit u = none) →
    (scanBytes limit bytes).failed = (tokens bytes).filter isHexToken ∧ parse limit bytes = .noOption

/-- Resolution: no value gives NoOption; with a value, display outranks countdown, which outranks countup; with no flag
NoOption although a value was parsed (45_host_command_path.md R128). -/
def Obligations.ResolutionPriority : Prop :=
  (∀ o : ParseOutcome, o.resolved = false → resolve o = .noOption) ∧
  ∀ v d l u, resolve { display := d, countdown := l, countup := u, value := some v, resolved := true } =
    if d then .display v else if l then .countDown v else if u then .countUp v else .noOption

/-! ### The controller (45_host_command_path.md R130 to R135) -/

/-- A value above 15 expands to one range diagnostic and no block operation, for each of the three commands; a display
of 0 to 15 expands to the one word 0x40 | v (45_host_command_path.md R130, R131; 92_eei_decisions.md D37). -/
def Obligations.OutOfRangeValuesAreLoggedAndDropped : Prop :=
  (∀ v, 15 < v →
    expand (.display v) = [.log .rangeError (.value v)] ∧
    expand (.countDown v) = [.log .rangeError (.value v)] ∧
    expand (.countUp v) = [.log .rangeError (.value v)]) ∧
  ∀ v, v ≤ 15 → expand (.display v) = [.issue (0x40#8 ||| BitVec.ofNat 8 v)]

/-- CountDown(v), selected with display clear and countdown set, expands to the words of v down to 0 with a sleep
between two of them and none after the last, and for v above 15 to one range diagnostic. In ACTIVE the machine runs it
to its end and returns the waiting reply: with v in [0,15] the trace gains the frames of v down to 0 with a one-second
sleep between two of them; otherwise one range diagnostic and nothing else (45_host_command_path.md R132). The single diagnostic is
92_eei_decisions.md D37's, the outputs shown are D14's (assumption 12), and the two steps of the diagnostic's run and the
reply are the model's (assumptions 7 and 8). -/
def Obligations.CountDownRunsToItsEnd : Prop :=
  (∀ v u, resolve { display := false, countdown := true, countup := u, value := some v, resolved := true } =
    .countDown v) ∧
  (∀ v, expand (.countDown v) =
    if v ≤ 15 then
      (((List.range (v + 1)).reverse.map fun i => .issue (0x40#8 ||| BitVec.ofNat 8 i)).intersperse .sleep)
    else [.log .rangeError (.value v)]) ∧
  ∀ s v r, s.Ready → s.host.call = .running (expand (.countDown v)) r →
    s.block.drv = .active → s.block.lv.clock = some false → s.block.lv.latch = some false →
    (v ≤ 15 → ∃ n, run n s = .next { s with
      block := { s.block with
        trace := s.block.trace ++ countDownTrace v
        lv := ⟨some (patternBit (memReadSeg 0) 7), some false, some false⟩ }
      host := { s.host with call := .idle, replies := s.host.replies ++ [r] }
      obs := { sr := outputsOf (memReadSeg 0), st := outputsOf (memReadSeg 0) } }) ∧
    (15 < v → run 2 s = .next { s with
      block := { s.block with trace := s.block.trace ++ [.log .rangeError (.value v)] }
      host := { s.host with call := .idle, replies := s.host.replies ++ [r] } })

/-- CountUp(v), selected with display and countdown clear and countup set, expands to the words of v up to 15 with a
sleep between two of them and none after the last, and for v above 15 to one range diagnostic. In ACTIVE the machine
runs it to its end and returns the waiting reply: with v in [0,15] the trace gains the frames of v up to 15 with a
one-second sleep between two of them; otherwise one range diagnostic and nothing else (45_host_command_path.md R133).
The single diagnostic is 92_eei_decisions.md D37's, the outputs shown are D14's (assumption 12), and the two steps of the
diagnostic's run and the reply are the model's (assumptions 7 and 8). -/
def Obligations.CountUpRunsToItsEnd : Prop :=
  (∀ v, resolve { display := false, countdown := false, countup := true, value := some v, resolved := true } =
    .countUp v) ∧
  (∀ v, expand (.countUp v) =
    if v ≤ 15 then
      (((List.range (16 - v)).map fun j => .issue (0x40#8 ||| BitVec.ofNat 8 (v + j))).intersperse .sleep)
    else [.log .rangeError (.value v)]) ∧
  ∀ s v r, s.Ready → s.host.call = .running (expand (.countUp v)) r →
    s.block.drv = .active → s.block.lv.clock = some false → s.block.lv.latch = some false →
    (v ≤ 15 → ∃ n, run n s = .next { s with
      block := { s.block with
        trace := s.block.trace ++ countUpTrace (15 - v) v
        lv := ⟨some (patternBit (memReadSeg 15) 7), some false, some false⟩ }
      host := { s.host with call := .idle, replies := s.host.replies ++ [r] }
      obs := { sr := outputsOf (memReadSeg 15), st := outputsOf (memReadSeg 15) } }) ∧
    (15 < v → run 2 s = .next { s with
      block := { s.block with trace := s.block.trace ++ [.log .rangeError (.value v)] }
      host := { s.host with call := .idle, replies := s.host.replies ++ [r] } })

/-- In INERT the expansions still run: every write is a no-op and the sleeps still happen, the spec's own inference
(45_host_command_path.md R135; the reply at the end is assumptions 7 and 8). -/
def Obligations.InertCountsOnlySleep : Prop :=
  ∀ s v r, s.Ready → s.block.drv = .inert → v ≤ 15 →
    (s.host.call = .running (expand (.countDown v)) r →
      ∃ n, run n s = .next { s with
        block := { s.block with trace := s.block.trace ++ List.replicate v (.sleep 1) }
        host := { s.host with call := .idle, replies := s.host.replies ++ [r] } }) ∧
    (s.host.call = .running (expand (.countUp v)) r →
      ∃ n, run n s = .next { s with
        block := { s.block with trace := s.block.trace ++ List.replicate (15 - v) (.sleep 1) }
        host := { s.host with call := .idle, replies := s.host.replies ++ [r] } })

/-- NoOption logs exactly one diagnostic, "no option found", and has no hardware effect (45_host_command_path.md R134;
92_eei_decisions.md D27). That this is two steps, the diagnostic and then the return, is the model's grain, assumption 7,
and the reply is assumption 8. -/
def Obligations.NoOptionLogsOnce : Prop :=
  messageText .noOptionFound = "no option found" ∧
  ∀ s r, s.Ready → s.host.call = .running (expand .noOption) r →
    run 2 s = .next { s with
      block := { s.block with trace := s.block.trace ++ [.log .unrecognizedCommand (.text .noOptionFound)] }
      host := { s.host with call := .idle, replies := s.host.replies ++ [r] } }

/-- An accept whose bytes parse to Display(v), taken in ACTIVE, runs to its end: the trace gains the parse errors and
then the frame of v, or for v above 15 one range diagnostic; either way the accept returns its count, and the next
request is the host's (45_host_command_path.md R131, R137, R138; the observer is 92_eei_decisions.md D14's, assumption 12;
the grain and the reply are assumptions 7 and 8). -/
def Obligations.AcceptedDisplayRunsToItsEnd : Prop :=
  ∀ s offset payload rest n v, s.HostTurn → s.host.requests = .accept offset payload false :: rest →
    offset < s.cfg.cap → n = min payload.length (s.cfg.cap - offset) →
    parse s.cfg.hexLimit (payload.take n) = .display v →
    s.block.drv = .active → s.block.lv.clock = some false → s.block.lv.latch = some false →
    ∃ k t, run k s = .next t ∧ t.HostTurn ∧ t.host.requests = rest ∧ t.block.drv = .active ∧
      t.host.replies = s.host.replies ++ [.accepted n] ∧
      (v ≤ 15 →
        t.block.trace = s.block.trace ++ scanLogs (scanBytes s.cfg.hexLimit (payload.take n)) ++
          frameEvents (memReadSeg (BitVec.ofNat 4 v)) ∧
        t.obs.st = outputsOf (memReadSeg (BitVec.ofNat 4 v))) ∧
      (15 < v →
        t.block.trace = s.block.trace ++ scanLogs (scanBytes s.cfg.hexLimit (payload.take n)) ++
          [.log .rangeError (.value v)] ∧
        t.obs = s.obs ∧ t.block.lv = s.block.lv)

/-! ### Reset and the invariants -/

/-- Reset: UNINIT, no line held or driven, empty trace, Idle, no mark, the channel all zero with cursor 0, the observer
all Unknown (10_state.md R32, 70_reset_and_hazards.md R180; 92_eei_decisions.md D1, D4, D15, D16, D20, D29, D31). The
reference parameters are 50 bytes and no limit (00_scope.md R10; assumptions 10 and 22). -/
def Obligations.ResetStateAsTheSpecGivesIt : Prop :=
  State.reset.block.drv = .uninit ∧ State.reset.NoLine ∧ State.reset.block.trace = [] ∧ State.reset.Ready ∧
  (∀ a, Memory.read State.reset.host.buf a = 0x00#8) ∧ State.reset.host.cursor = 0 ∧
  State.reset.obs = { sr := List.replicate 8 .unknown, st := List.replicate 8 .unknown } ∧
  State.reset.cfg = { cap := 50, hexLimit := none }

/-- Every invariant holds right after reset, whatever the service will answer and whatever the parameters are. -/
def Obligations.InvariantsHoldAtReset : Prop :=
  ∀ cfg answers,
    LifecycleInv (State.resetWith cfg answers) ∧ WireInv (State.resetWith cfg answers) ∧
    FrameInv (State.resetWith cfg answers) ∧ ReplayInv (State.resetWith cfg answers) ∧
    MarkInv (State.resetWith cfg answers) ∧ ChannelInv (State.resetWith cfg answers) ∧
    CallInv (State.resetWith cfg answers) ∧ ObserverInv (State.resetWith cfg answers)

/-- Every step keeps the lifecycle invariant: ACTIVE if and only if the three lines are held; no line held or driven in
any other state (10_state.md R23, R24). -/
def Obligations.StepKeepsLifecycleInv : Prop :=
  ∀ s t, LifecycleInv s → step s = .next t → LifecycleInv t

/-- Every step keeps the levels on the wires what the position in the frame says (41_serializer.md R96, R97, R101). -/
def Obligations.StepKeepsWireInv : Prop :=
  ∀ s t, WireInv s → step s = .next t → WireInv t

/-- Every step keeps the trace ending in the part of the frame already emitted (10_state.md R28, 41_serializer.md R98,
R103). -/
def Obligations.StepKeepsFrameInv : Prop :=
  ∀ s t, FrameInv s → step s = .next t → FrameInv t

/-- Every step keeps the trace a legal sequence of GPIO calls that accounts for the lines held, the levels driven and
the observer (10_state.md R23, R24, R27, 60_exceptions.md R170, R171). -/
def Obligations.StepKeepsReplayInv : Prop :=
  ∀ s t, LifecycleInv s → ReplayInv s → step s = .next t → ReplayInv t

/-- Every step keeps the marks exclusive, outside any frame, and fitting the lifecycle (60_exceptions.md R163, R164). -/
def Obligations.StepKeepsMarkInv : Prop :=
  ∀ s t, MarkInv s → step s = .next t → MarkInv t

/-- Every step keeps the channel's buffer canonical and within the capacity, the cursor at most the capacity, and the
words an accept has still to issue WRITE_DIGIT words (45_host_command_path.md R130, R136, R142). The canonical form is the
model's, assumption 19, and so is the list of actions still to run, assumption 7. -/
def Obligations.StepKeepsHostInvs : Prop :=
  ∀ s t, ChannelInv s → CallInv s → step s = .next t → ChannelInv t ∧ CallInv t

/-- Every step keeps eight cells in each of the observer's registers (60_exceptions.md R171). -/
def Obligations.StepKeepsObserverInv : Prop :=
  ∀ s t, ObserverInv s → step s = .next t → ObserverInv t

/-! ### Whole-machine rules -/

/-- No step removes an event, and no step withdraws a value returned (10_state.md R27). -/
def Obligations.TraceOnlyGrows : Prop :=
  ∀ s t, step s = .next t → s.block.trace <+: t.block.trace ∧ s.host.replies <+: t.host.replies

/-- The lifecycle moves only from UNINIT to ACTIVE or INERT, by a step that runs INIT, and from any state to RELEASED, by
a step that runs TEARDOWN: INERT is left by TEARDOWN alone, and nothing comes back to UNINIT (10_state.md R22;
92_eei_decisions.md D4, D5, D7). -/
def Obligations.LifecycleNeverGoesBack : Prop :=
  ∀ s t, step s = .next t → t.block.drv ≠ s.block.drv →
    s.Ready ∧
    ((s.nextInstr = some .teardown ∧ t.block.drv = .released) ∨
     (s.nextInstr = some .init ∧ s.block.drv = .uninit ∧ (t.block.drv = .active ∨ t.block.drv = .inert)))

/-- No step changes the parameters or the environment's answers (00_scope.md R10, 10_state.md R33). -/
def Obligations.ParametersNeverChange : Prop :=
  ∀ s t, step s = .next t → t.cfg = s.cfg ∧ t.answers = s.answers

/-- An accept of zero bytes below the capacity succeeds, whatever the environment says of its copy: the buffer is cleared,
the empty input parses to NoOption, its one diagnostic is logged, and the count 0 is returned (45_host_command_path.md
R138, the spec's own inference; 92_eei_decisions.md D25, D27; the three steps and the reply are the model's, assumptions
7 and 8; before INIT, assumption 23). -/
def Obligations.ZeroByteAcceptLogsNoOption : Prop :=
  (∀ a, Memory.read Memory.cleared a = 0x00#8) ∧
  ∀ s offset fails rest, s.HostTurn → s.host.requests = .accept offset [] fails :: rest → offset < s.cfg.cap →
    run 3 s = .next { s with
      block := { s.block with trace := s.block.trace ++ [.log .unrecognizedCommand (.text .noOptionFound)] }
      host := { s.host with
        buf := Memory.cleared
        cursor := offset
        outcome := .fresh
        requests := rest
        replies := s.host.replies ++ [.accepted 0] } }
end

