-- ==== Sys2Proof/Tests/Slice0.lean ====
section
/-! SUPPORT. The model's own tests: refused ill-formed terms, decoded words, single steps with results from
95_test_vectors.md, and for each statement with hypotheses a state and operands that meet them. -/

namespace Sys2Proof.Tests

open Sys2Proof.Machine

/-! ### Small states -/

/-- A service that answers Ok for every line. -/
def allOk : PerLine Answer := ⟨.ok 1, .ok 2, .ok 3⟩

/-- Reset with the given answers. -/
def fresh (a : PerLine Answer) : State := State.resetWith .reference a

/-- The trace of a successful INIT (95_test_vectors.md, INIT_OK). -/
def initOk : List Event :=
  [.acquire .data .ok, .acquire .clock .ok, .acquire .latch .ok,
   .setOutput .data false, .setOutput .clock false, .setOutput .latch false]

/-- A state in the given lifecycle with no line held. -/
def unheld (drv : Lifecycle) : State := setDrv drv (fresh allOk)

/-- The state after a successful INIT (95_test_vectors.md V60). -/
def active : State :=
  { fresh allOk with
    block := { Block.reset with
      drv := .active
      h := ⟨some 1, some 2, some 3⟩
      lv := ⟨some false, some false, some false⟩
      trace := initOk } }

/-- The active state with one request. -/
def asking (r : HostRequest) : State := setRequests [r] active

/-- The active state with an accept in progress. -/
def calling (c : Command) : State := setCall (.running (expand c) (.accepted 6)) active

/-- The active state before event `k` of the frame of digit 5, with the levels given. -/
def framing (k : Fin 44) (lv : PerLine (Option Bool)) : State :=
  { active with
    block := { active.block with
      seq := .inWrite 5#4 k
      lv := lv
      trace := initOk ++ (frameEvents 0x48#8).take k.val } }

/-- The state an outcome answers. -/
def stateOf (o : Host.Outcome State Fault Refusal) : Option State :=
  match o with
  | .next s => some s
  | .fault _ => none
  | .refused _ => none

/-! ### WellFormed: one ill-formed term for each check -/

theorem test_wellFormed_init_operand : (AsmTerm.mk .init (some 0)).wellFormed = false := by decide
theorem test_wellFormed_teardown_operand : (AsmTerm.mk .teardown (some 0)).wellFormed = false := by decide
theorem test_wellFormed_writeDigit_none : (AsmTerm.mk .writeDigit none).wellFormed = false := by decide
theorem test_wellFormed_encode_none : (AsmTerm.mk .encode none).wellFormed = false := by decide
theorem test_wellFormed_writeDigit_16 : (AsmTerm.mk .writeDigit (some 16)).wellFormed = false := by decide
theorem test_wellFormed_encode_16 : (AsmTerm.mk .encode (some 16)).wellFormed = false := by decide
theorem test_wellFormed_cap_0 : (Config.mk 0 none).wellFormed = false := by decide
theorem test_wellFormed_every_writeDigit : ∀ d, (Instr.writeDigit d).wellFormed = true := by decide

/-! ### Decode (95_test_vectors.md V1 to V14) -/

theorem test_decode_init : decode 0b00000000#8 = .ok .init := by decide
theorem test_decode_writeDigit_15 : decode 0b01001111#8 = .ok (.writeDigit 15#4) := by decide
theorem test_decode_teardown : decode 0b10000000#8 = .ok .teardown := by decide
theorem test_decode_encode_5 : decode 0b11000101#8 = .ok (.encode 5#4) := by decide
theorem test_decode_01 : decode 0x01#8 = .error (.operandNotZero 0x01#8) := by decide
theorem test_decode_10 : decode 0x10#8 = .error (.reservedBits 0x10#8) := by decide
theorem test_decode_8F : decode 0x8F#8 = .error (.operandNotZero 0x8F#8) := by decide
theorem test_decode_FF : decode 0xFF#8 = .error (.reservedBits 0xFF#8) := by decide
theorem test_decodeTableWord : decodeTableWord 8 0x45 = some (.writeDigit 5#4) := by decide
theorem test_assemble_hex : assemble ['E', 'N', 'C', 'O', 'D', 'E', ' ', '0', 'x', 'B'] = some (.encode 11#4) := by
  decide
theorem test_assemble_16 :
    assemble ['W', 'R', 'I', 'T', 'E', '_', 'D', 'I', 'G', 'I', 'T', ' ', '1', '6'] = none := by decide

/-! ### Single steps (95_test_vectors.md) -/

/-- V60. -/
theorem test_init_ok : stateOf (exec .init (fresh allOk)) = some active := by decide

/-- V63; the order of the events is the spec's decision D8. -/
theorem test_init_latch_unavailable :
    (stateOf (exec .init (fresh ⟨.ok 1, .ok 2, .unavailable⟩))).map (fun s => (s.block.drv, s.block.h, s.block.trace)) =
      some (.inert, ⟨none, none, none⟩,
        [.acquire .data .ok, .acquire .clock .ok, .acquire .latch .unavailable, .release .clock, .release .data,
         .log .configurationError (.line .latch)]) := by decide

/-- V47, k = 15: DATA goes high for p[3] of digit 5. -/
theorem test_frame_event_15 :
    (stateOf (step (framing 15 ⟨some false, some false, some false⟩))).map (fun s => (s.block.lv.data, s.block.seq)) =
      some (some true, .inWrite 5#4 16) := by decide

/-- V47, k = 43: LATCH falls and the operation ends. -/
theorem test_frame_event_43 :
    (stateOf (step (framing 43 ⟨some false, some false, some true⟩))).map (fun s => (s.block.lv.latch, s.block.seq)) =
      some (some false, .idle) := by decide

/-- V70; the order of the events is the spec's decision D10. -/
theorem test_teardown_active :
    (stateOf (exec .teardown active)).map (fun s => (s.block.drv, s.block.lv, s.block.trace.drop 6)) =
      some (.released, ⟨none, none, none⟩, [.release .data, .release .clock, .release .latch]) := by decide

/-- V73. -/
theorem test_teardown_twice : stateOf (exec .teardown (unheld .released)) = some (unheld .released) := by decide

/-- V25, V37. -/
theorem test_encode_5_inert :
    (stateOf (exec (.encode 5#4) (unheld .inert))).map (fun s => s.host.replies) = some [.pattern 0x48#8] := by decide

/-- V35. -/
theorem test_encode_15 :
    (stateOf (exec (.encode 15#4) active)).map (fun s => s.host.replies) = some [.pattern 0x70#8] := by decide

/-- V39: bit 0 of every entry is 0, and 8 has the only zero entry. -/
theorem test_segment_corner : ∀ d, (memReadSeg d).getLsbD 0 = false ∧ (memReadSeg d = 0x00#8 ↔ d = 8#4) := by decide

/-- V36. -/
theorem test_wide_lookup : wideLookup 16 = .error (.segIndexOutside 16) ∧ wideLookup (-1) = .error (.segIndexOutside (-1)) :=
  ⟨rfl, rfl⟩

/-- With nothing issued the machine waits (assumption 1). -/
theorem test_waits : stateOf (step active) = some active := by decide

/-! ### Parser (95_test_vectors.md S2 to S6, V90 to V125) -/

theorem test_parse_S2 : parse none (ascii ['-', '-', 'd', 'i', 's', 'p', 'l', 'a', 'y', ' ', '0', 'x', '5']) = .display 5 := by
  decide
theorem test_parse_S4 : parse none (ascii ['0', 'x', '5', ' ', '-', '-', 'd', 'i', 's', 'p', 'l', 'a', 'y']) = .noOption := by
  decide
theorem test_parse_V90 : parse none (ascii ['-', 'd', ' ', '0', 'x', '5', '\n']) = .display 5 := by decide
theorem test_parse_V98 : parse none (ascii ['-', 'd', ' ', 'a', '0', 'x', '5']) = .display 5 := by decide
theorem test_parse_V99 : scanBytes none (ascii ['-', 'd', ' ', '0', 'x']) =
    { failed := [], outcome := { ParseOutcome.fresh with display := true } } := by decide
theorem test_parse_V100 : scanBytes none (ascii ['-', 'd', ' ', '0', 'x', 'g', ' ', '0', 'x', '7']) =
    { failed := [ascii ['0', 'x', 'g']]
      outcome := { display := true, countdown := false, countup := false, value := some 7, resolved := true } } := by
  decide
theorem test_parse_V105 : parse none (ascii ['-', 'u', ' ', '-', 'l', ' ', '0', 'x', '2']) = .countDown 2 := by decide
theorem test_parse_V122 : parse (some (2 ^ 31 - 1))
    (ascii ['-', 'd', ' ', '0', 'x', '8', '0', '0', '0', '0', '0', '0', '0', ' ', '0', 'x', '2']) = .display 2 := by decide

/-! ### Controller (95_test_vectors.md S9, S10, V110) -/

theorem test_expand_S9 : expand (.countDown 3) =
    [.issue 0x43#8, .sleep, .issue 0x42#8, .sleep, .issue 0x41#8, .sleep, .issue 0x40#8] := by decide
theorem test_expand_S10 : expand (.countUp 14) = [.issue 0x4E#8, .sleep, .issue 0x4F#8] := by decide
theorem test_expand_V110 : expand (.countDown 16) = [.log .rangeError (.value 16)] := by decide

/-! ### Channel (95_test_vectors.md V140 to V151) -/

/-- V144: five bytes fit from offset 45 on. -/
theorem test_accept_clamped :
    (stateOf (step (asking (.accept 45 (ascii ['-', '-', 'd', 'i', 's', 'p']) false)))).map
      (fun s => (Memory.readBytes s.host.buf 44 6, s.host.cursor)) =
      some (0x00#8 :: ascii ['-', '-', 'd', 'i', 's'], 50) := by decide

/-- V141. -/
theorem test_accept_out_of_space :
    (stateOf (step (asking (.accept 50 [0x2D#8] false)))).map (fun s => s.host.replies) = some [.outOfSpace 50] := by
  decide

/-- V148: a retrieve at offset 2 of a buffer holding "-d 0x3". -/
theorem test_retrieve :
    (stateOf (step (setChannel (copyIn 0 (ascii ['-', 'd', ' ', '0', 'x', '3']) 6) 6 (asking (.retrieve 2 5 false))))).map
      (fun s => (s.host.replies, s.host.cursor)) =
      some ([.bytes (ascii [' ', '0', 'x', '3'] ++ [0x00#8])], 7) := by decide

/-- V149: the cursor stays and no parse runs. -/
theorem test_accept_transfer_fault :
    (stateOf (step (asking (.accept 0 [0x2D#8] true)))).map (fun s => (s.host.replies, s.host.cursor, s.host.call)) =
      some ([.transferFault], 0, .idle) := by rfl

/-- 45_host_command_path.md R138: an accept of zero bytes succeeds, and its parse is of the empty input. -/
theorem test_accept_zero_bytes :
    (stateOf (step (asking (.accept 6 [] true)))).map (fun s => (s.host.cursor, s.host.call)) =
      some (6, .running [.log .unrecognizedCommand (.text .noOptionFound)] (.accepted 0)) := by decide

/-! ### Each statement's hypotheses are met -/

theorem witness_active_ready : active.HostTurn ∧ active.block.drv = .active ∧ active.block.lv.clock = some false ∧
    active.block.lv.latch = some false := by decide

theorem witness_StepRunsDecodedWord :
    decode 0x45#8 = .ok (.writeDigit 5#4) ∧
    (asking (.word 0x45#8)).HostTurn ∧ (asking (.word 0x45#8)).host.requests = [.word 0x45#8] ∧
    (calling (.display 5)).Ready ∧ (calling (.display 5)).host.call = .running [.issue 0x45#8] (.accepted 6) := by decide

theorem witness_IllegalWordSetsRefusalMark :
    (asking (.word 0x50#8)).HostTurn ∧ (asking (.word 0x50#8)).host.requests = [.word 0x50#8] ∧
    decode 0x50#8 = .error (.reservedBits 0x50#8) := by decide

theorem witness_MarkedMachineHasNoStep :
    (raiseUsageFault .initAgain active).block.fault = some .initAgain ∧
    (refuseIllegal 0x50#8 active).block.fault = none ∧ (refuseIllegal 0x50#8 active).block.refused = some 0x50#8 := by
  decide

theorem witness_OperationDuringFrameHasNoStep :
    (framing 0 active.block.lv).Unmarked ∧ (framing 0 active.block.lv).block.seq = .inWrite 5#4 0 := by decide

theorem witness_FrameStepEmitsNextEvent :
    (framing 42 active.block.lv).Unmarked ∧ (framing 42 active.block.lv).block.seq = .inWrite 5#4 42 ∧
    (framing 43 active.block.lv).Unmarked ∧ (framing 43 active.block.lv).block.seq = .inWrite 5#4 43 := by decide

theorem witness_InitAcquiresAndDrivesLow :
    (fresh allOk).Ready ∧ (fresh allOk).block.drv = .uninit ∧ (fresh allOk).answers = ⟨.ok 1, .ok 2, .ok 3⟩ := by decide

theorem witness_InitFailureLeavesInert :
    (fresh allOk).NoLine ∧
    firstUnavailable (fresh ⟨.unavailable, .ok 2, .unavailable⟩).answers = some .data ∧
    firstUnavailable (fresh ⟨.ok 1, .unavailable, .unavailable⟩).answers = some .clock ∧
    firstUnavailable (fresh ⟨.ok 1, .ok 2, .unavailable⟩).answers = some .latch ∧
    (fresh ⟨.ok 1, .ok 2, .unavailable⟩).Ready ∧ (fresh ⟨.ok 1, .ok 2, .unavailable⟩).NoLine ∧
    (fresh ⟨.ok 1, .ok 2, .unavailable⟩).block.drv = .uninit := by decide

theorem witness_InitAgainSetsFaultMark : active.Ready ∧ active.block.drv ≠ .uninit := by decide

theorem witness_WriteDigitCompletesItsFrame : active.Ready ∧ active.block.drv = .active ∧
    active.block.lv.clock = some false ∧ active.block.lv.latch = some false := by decide

theorem witness_WriteDigitInertIsNoOp : (unheld .inert).Ready ∧ (unheld .inert).block.drv = .inert := by decide

theorem witness_WriteDigitOutsideLifetimeSetsFaultMark :
    (unheld .uninit).Ready ∧ (unheld .uninit).block.drv = .uninit ∧
    (unheld .released).Ready ∧ (unheld .released).block.drv = .released := by decide

theorem witness_TeardownReleasesTheLines : active.Ready ∧ active.block.drv = .active := by decide

theorem witness_TeardownWithoutLinesEmitsNothing : (unheld .inert).Ready ∧ (unheld .inert).block.drv ≠ .active := by
  decide

theorem witness_EncodeReturnsTheEntry :
    (unheld .uninit).Ready ∧ active.Ready ∧ (unheld .inert).Ready ∧ (unheld .released).Ready := by decide

theorem witness_WideLookupRefusesOutsideTable : ((-1 : Int) < 0 ∨ 15 < (-1 : Int)) ∧ ((16 : Int) < 0 ∨ 15 < (16 : Int)) := by
  decide

theorem witness_BitCellHoldsItsFiveEvents : (0 < 8 ∧ 0 < 7) ∧ (6 < 8 ∧ 6 < 7) ∧ 7 < 8 := by decide

theorem witness_DataIsSetUpBeforeTheClockRises :
    (frameEvents 0x48#8)[2]? = some (.set .clock true) ∧ (frameEvents 0x48#8)[37]? = some (.set .clock true) := by decide

theorem witness_ObserverFollowsTheEdges :
    active.block.lv.clock = some false ∧ active.block.lv.data = some false ∧ active.obs.sr.length = 8 ∧
    active.block.lv.latch = some false ∧ changesOwnership (.release .data) = true ∧
    changesOwnership (.set .clock false) = false := by decide

theorem witness_OutputsChangeOnlyAtTheLatch :
    let s := { framing 41 active.block.lv with obs := { Observer.allUnknown with sr := outputsOf 0x48#8 } }
    ∃ t, step s = .next t ∧ t.obs.st ≠ s.obs.st := ⟨_, rfl, by decide⟩

theorem witness_OutputsChangeOnlyAtTheLatch_teardown :
    let s := { asking (.word 0x80#8) with obs := { Observer.allUnknown with st := outputsOf 0x48#8 } }
    ∃ t, step s = .next t ∧ t.obs.st ≠ s.obs.st := ⟨_, rfl, by decide⟩

theorem witness_ChannelByteReadsBackAsWritten : Memory.wf [(3, 0x2D#8), (7, 0x64#8)] := by decide

theorem witness_AcceptCopiesClearsAndParses :
    let p := ascii ['-', 'd', ' ', '0', 'x', 'F']
    (asking (.accept 49 p false)).HostTurn ∧ (asking (.accept 49 p false)).host.requests = [.accept 49 p false] ∧
    49 < (asking (.accept 49 p false)).cfg.cap ∧ 1 = min p.length ((asking (.accept 49 p false)).cfg.cap - 49) ∧
    (asking (.accept 49 [] true)).HostTurn ∧ (asking (.accept 49 [] true)).host.requests = [.accept 49 [] true] ∧
    49 < (asking (.accept 49 [] true)).cfg.cap ∧ 0 = min 0 ((asking (.accept 49 [] true)).cfg.cap - 49) := by decide

theorem witness_ZeroByteAcceptLogsNoOption :
    (asking (.accept 49 [] true)).HostTurn ∧ (asking (.accept 49 [] true)).host.requests = [.accept 49 [] true] ∧
    49 < (asking (.accept 49 [] true)).cfg.cap := by decide

theorem witness_AcceptBeyondCapacityReturnsOutOfSpace :
    (asking (.accept 50 [] true)).HostTurn ∧ (asking (.accept 50 [] true)).host.requests = [.accept 50 [] true] ∧
    (asking (.accept 50 [] true)).cfg.cap ≤ 50 := by decide

theorem witness_AcceptTransferFaultRunsNoParse :
    (asking (.accept 49 [0x2D#8] true)).HostTurn ∧
    (asking (.accept 49 [0x2D#8] true)).host.requests = [.accept 49 [0x2D#8] true] ∧
    [0x2D#8] ≠ [] ∧ 49 < (asking (.accept 49 [0x2D#8] true)).cfg.cap := by decide

theorem witness_RetrieveReturnsTheBufferBytes :
    (asking (.retrieve 49 9 false)).HostTurn ∧ (asking (.retrieve 49 9 false)).host.requests = [.retrieve 49 9 false] ∧
    49 < (asking (.retrieve 49 9 false)).cfg.cap ∧ 1 = min 9 ((asking (.retrieve 49 9 false)).cfg.cap - 49) := by decide

theorem witness_RetrieveEndsOrFaultsWithoutEffect :
    (asking (.retrieve 50 9 true)).HostTurn ∧ (asking (.retrieve 50 9 true)).host.requests = [.retrieve 50 9 true] ∧
    (asking (.retrieve 50 9 true)).cfg.cap ≤ 50 ∧
    (asking (.retrieve 49 9 true)).HostTurn ∧ (asking (.retrieve 49 9 true)).host.requests = [.retrieve 49 9 true] ∧
    49 < (asking (.retrieve 49 9 true)).cfg.cap := by decide

theorem witness_ParseStopsAtTheFirstValue :
    tokens (ascii ['-', 'd', ' ', '0', 'x', 'g', ' ', '0', 'x', '7', ' ', '-', 'l']) =
      [ascii ['-', 'd'], ascii ['0', 'x', 'g']] ++ ascii ['0', 'x', '7'] :: [ascii ['-', 'l']] ∧
    (∀ u ∈ [ascii ['-', 'd'], ascii ['0', 'x', 'g']], tokenValue none u = none) ∧
    tokenValue none (ascii ['0', 'x', '7']) = some 7 ∧
    ∀ u ∈ tokens (ascii ['-', 'd', ' ', '0', 'x']), tokenValue none u = none := by decide

theorem witness_ResolutionPriority : ParseOutcome.fresh.resolved = false := by decide

theorem witness_OutOfRangeValuesAreLoggedAndDropped : 15 < 16 ∧ 15 ≤ 15 := by decide

theorem witness_CountDownRunsToItsEnd :
    (calling (.countDown 15)).Ready ∧ (calling (.countDown 15)).host.call = .running (expand (.countDown 15)) (.accepted 6) ∧
    (calling (.countDown 15)).block.drv = .active ∧ (calling (.countDown 15)).block.lv.clock = some false ∧
    (calling (.countDown 15)).block.lv.latch = some false ∧
    (calling (.countDown 16)).Ready ∧ (calling (.countDown 16)).host.call = .running (expand (.countDown 16)) (.accepted 6) ∧
    (calling (.countDown 16)).block.drv = .active ∧ (calling (.countDown 16)).block.lv.clock = some false ∧
    (calling (.countDown 16)).block.lv.latch = some false := by decide

theorem witness_CountUpRunsToItsEnd :
    (calling (.countUp 0)).Ready ∧ (calling (.countUp 0)).host.call = .running (expand (.countUp 0)) (.accepted 6) ∧
    (calling (.countUp 0)).block.drv = .active ∧ (calling (.countUp 0)).block.lv.clock = some false ∧
    (calling (.countUp 0)).block.lv.latch = some false ∧
    (calling (.countUp 16)).Ready ∧ (calling (.countUp 16)).host.call = .running (expand (.countUp 16)) (.accepted 6) ∧
    (calling (.countUp 16)).block.drv = .active ∧ (calling (.countUp 16)).block.lv.clock = some false ∧
    (calling (.countUp 16)).block.lv.latch = some false := by decide

/-- An INERT block with a counting command in progress. -/
def inertCalling (c : Command) : State := setCall (.running (expand c) (.accepted 6)) (unheld .inert)

theorem witness_InertCountsOnlySleep :
    (inertCalling (.countDown 15)).Ready ∧ (inertCalling (.countDown 15)).block.drv = .inert ∧ 15 ≤ 15 ∧
    (inertCalling (.countDown 15)).host.call = .running (expand (.countDown 15)) (.accepted 6) ∧
    (inertCalling (.countUp 15)).Ready ∧ (inertCalling (.countUp 15)).block.drv = .inert ∧
    (inertCalling (.countUp 15)).host.call = .running (expand (.countUp 15)) (.accepted 6) := by decide

theorem witness_NoOptionLogsOnce :
    (calling .noOption).Ready ∧ (calling .noOption).host.call = .running (expand .noOption) (.accepted 6) := by decide

theorem witness_AcceptedDisplayRunsToItsEnd :
    let p := ascii ['-', 'd', ' ', '0', 'x', 'F']
    let q := ascii ['-', 'd', ' ', '0', 'x', '1', '0']
    ((asking (.accept 0 p false)).HostTurn ∧ (asking (.accept 0 p false)).host.requests = [.accept 0 p false] ∧
      0 < (asking (.accept 0 p false)).cfg.cap ∧ 6 = min p.length ((asking (.accept 0 p false)).cfg.cap - 0) ∧
      parse (asking (.accept 0 p false)).cfg.hexLimit (p.take 6) = .display 15 ∧
      (asking (.accept 0 p false)).block.drv = .active ∧
      (asking (.accept 0 p false)).block.lv = ⟨some false, some false, some false⟩) ∧
    ((asking (.accept 0 q false)).HostTurn ∧ (asking (.accept 0 q false)).host.requests = [.accept 0 q false] ∧
      7 = min q.length ((asking (.accept 0 q false)).cfg.cap - 0) ∧
      parse (asking (.accept 0 q false)).cfg.hexLimit (q.take 7) = .display 16) := by decide

/-! ### The invariants hold in a state of a running frame, and it has a step -/

/-- The state before event 1 of the frame of digit 5, an accept in progress. -/
def midFrame : State := setCall (.running [.sleep, .issue 0x44#8] (.accepted 9)) (framing 1 active.block.lv)

theorem witness_midFrame_steps : ∃ t, step midFrame = .next t := ⟨_, rfl⟩

theorem witness_TraceOnlyGrows : ∃ t, step midFrame = .next t ∧ t.block.trace ≠ midFrame.block.trace :=
  ⟨_, rfl, by decide⟩

theorem witness_LifecycleNeverGoesBack :
    (∃ t, step (placeWord 0x00#8 (fresh allOk)) = .next t ∧ t.block.drv = .active) ∧
    (∃ t, step (placeWord 0x80#8 active) = .next t ∧ t.block.drv = .released) ∧
    ∃ t, step (placeWord 0x80#8 (unheld .inert)) = .next t ∧ t.block.drv = .released :=
  ⟨⟨_, rfl, by decide⟩, ⟨_, rfl, by decide⟩, ⟨_, rfl, by decide⟩⟩

theorem witness_ParametersNeverChange : ∃ t, step midFrame = .next t := ⟨_, rfl⟩

theorem witness_StepKeepsLifecycleInv : LifecycleInv midFrame :=
  ⟨fun _ l => by cases l <;> decide, fun h => absurd rfl h⟩

theorem witness_StepKeepsWireInv : WireInv midFrame := fun _ => ⟨by decide, by decide, fun _ => by decide⟩

theorem witness_StepKeepsFrameInv : FrameInv midFrame := ⟨initOk, rfl⟩

theorem witness_StepKeepsReplayInv : ReplayInv midFrame := ⟨by decide, by decide⟩

theorem witness_StepKeepsMarkInv : MarkInv midFrame := by unfold MarkInv; decide

theorem witness_StepKeepsHostInvs : ChannelInv midFrame ∧ CallInv midFrame := by
  refine ⟨by unfold ChannelInv; decide, ?_⟩
  intro w hw
  have h : w = 0x44#8 := by simpa [midFrame] using hw
  subst h
  exact ⟨4#4, by decide⟩

theorem witness_StepKeepsObserverInv : ObserverInv midFrame := by unfold ObserverInv; decide

end Sys2Proof.Tests
end

