-- ==== Sys2Proof/Proofs/FrameBits.lean ====
section
/-! PROOFS. The frame as its eight bit cells and the latch pulse, and the bit order it puts on the wire (20_memory.md
R44, 41_serializer.md R95 to R98). -/

namespace Sys2Proof.Proofs

open Sys2Proof.Machine

/-! ### The parts of a frame -/

/-- Masking the shifted pattern reads the bit itself, for every position (41_serializer.md R96). -/
theorem patternBit_eq_getLsbD (p : Byte) (i : Nat) : patternBit p i = p.getLsbD i := by
  have hmask : (p >>> i) &&& 1#8 = (BitVec.ofBool (p.getLsbD i)).setWidth 8 := by
    simpa using BitVec.and_one_eq_setWidth_ofBool_getLsbD (x := p >>> i)
  unfold patternBit
  rw [hmask]
  cases p.getLsbD i <;> rfl

/-- The closed form of the frame is the loop: the two lists agree event by event. -/
theorem frameEvents_eq_frameLoop (p : Byte) : frameEvents p = frameLoop p := rfl

/-- The level an event writes on DATA, if it writes DATA. -/
def dataWrite : Event → Option Bool
  | .set .data b => some b
  | _ => none

/-- A bit cell writes DATA once, with its own bit. -/
@[simp] theorem bitCell_dataWrites (p : Byte) (i : Nat) : (bitCell p i).filterMap dataWrite = [p.getLsbD i] := by
  rw [← patternBit_eq_getLsbD]
  rfl

@[simp] theorem latchPulse_dataWrites : latchPulse.filterMap dataWrite = [] := rfl

/-- A bit cell is one clock pulse: CLOCK is set to each level once. -/
@[simp] theorem bitCell_count_clock (p : Byte) (i : Nat) (b : Bool) : (bitCell p i).count (.set .clock b) = 1 := by
  cases b <;> simp [bitCell]

@[simp] theorem latchPulse_count_clock (b : Bool) : latchPulse.count (.set .clock b) = 0 := by
  cases b <;> rfl

/-! ### A whole frame -/

/-- A frame writes DATA with bit 0 first and bit 7 last: the writes of its cells, in their order. -/
theorem frameEvents_dataWrites (p : Byte) :
    (frameEvents p).filterMap dataWrite = (List.range 8).map fun i => p.getLsbD i := by
  rw [frameEvents_eq_frameLoop, frameLoop, List.filterMap_append, List.filterMap_flatMap]
  simp [Config.nBits, List.map_eq_flatMap]

/-- A frame has one clock pulse per cell, eight in all. -/
theorem frameEvents_count_clock (p : Byte) (b : Bool) : (frameEvents p).count (.set .clock b) = 8 := by
  rw [frameEvents_eq_frameLoop, frameLoop, List.count_append, List.count_flatMap]
  simp [Config.nBits, Function.comp_def]

/-- Settles O23: the frame is its eight cells in the order of the bits, and each cell writes DATA once and pulses CLOCK
once. -/
theorem bitOrderIsLeastSignificantFirst : Obligations.BitOrderIsLeastSignificantFirst := by
  intro p
  exact ⟨frameEvents_dataWrites p, frameEvents_count_clock p true, frameEvents_count_clock p false⟩

end Sys2Proof.Proofs
end

