-- ==== Sys2Proof/Proofs/InertWrite.lean ====
section
/-! PROOFS. WRITE_DIGIT in a block that holds no line because its INIT failed (41_serializer.md R99). -/

namespace Sys2Proof.Proofs

open Sys2Proof.Machine

/-- The effect of WRITE_DIGIT on an INERT block is the identity (41_serializer.md R99). -/
theorem writeDigitEffect_of_inert (d : Digit) {s : State} (h : s.block.drv = .inert) : writeDigitEffect d s = s := by
  rw [writeDigitEffect, h]

/-- Settles O16: a ready block runs the operation's effect, and in INERT that effect is the identity. -/
theorem writeDigitInertIsNoOp : Obligations.WriteDigitInertIsNoOp := by
  intro s d hready hinert
  have heffect : s = writeDigitEffect d s := (writeDigitEffect_of_inert d hinert).symm
  exact (exec_next_iff (.writeDigit d) s s).mpr ⟨hready, heffect⟩

end Sys2Proof.Proofs
end

