-- ==== Sys2Proof/Proofs/Resolution.lean ====
section
/-! PROOFS. The command a parse outcome resolves to (45_host_command_path.md R128). -/

namespace Sys2Proof.Proofs

open Sys2Proof.Machine

/-- Without a resolved value the flags are not consulted. -/
theorem resolve_of_unresolved {o : ParseOutcome} (hresolved : o.resolved = false) : resolve o = .noOption := by
  rw [resolve, hresolved]

/-- With a resolved value the first flag set, in the order of R128, selects the command. -/
theorem resolve_of_value {o : ParseOutcome} {v : Nat} (hresolved : o.resolved = true) (hvalue : o.value = some v) :
    resolve o = if o.display then .display v else if o.countdown then .countDown v
      else if o.countup then .countUp v else .noOption := by
  rw [resolve, hresolved, hvalue]

/-- Settles O41: `resolved` decides which of the two equations of `resolve` applies, for every setting of the flags. -/
theorem resolutionPriority : Obligations.ResolutionPriority := by
  refine ⟨fun o => ?unresolved, fun v d l u => ?withValue⟩
  case unresolved => exact resolve_of_unresolved
  case withValue => exact resolve_of_value rfl rfl

end Sys2Proof.Proofs
end

section
/-! PROOFS. The order of the edges within a frame: DATA is set up before CLOCK rises, and LATCH pulses after the last bit
(70_reset_and_hazards.md R185 to R187). -/

namespace Sys2Proof.Proofs

open Sys2Proof.Machine

/-! ### The edges of CLOCK within their bit cells -/

/-- Position `5 * i + j` of a frame is position `j` of the cell of bit `i` (41_serializer.md R96). -/
theorem frameEvents_getElem?_cell (p : Byte) {i j : Nat} (hi : i < 8) (hj : j < 5) :
    (frameEvents p)[5 * i + j]? = (bitCell p i)[j]? := by
  have hlt : 5 * i + j < 40 := by omega
  have hmod : (5 * i + j) % 5 = j := by omega
  have hdiv : (5 * i + j) / 5 = i := by omega
  have hcell : (frameEvents p)[5 * i + j]? = some (frameEvent p (5 * i + j)) := by
    rw [frameEvents, List.getElem?_map, List.getElem?_range (by omega), Option.map_some]
  rw [hcell, frameEvent, if_pos hlt, hmod, hdiv]
  match j, hj with
  | 0, _ | 1, _ | 2, _ | 3, _ | 4, _ => rfl

/-- After the eight cells a frame holds the events of the latch pulse, and none after these (41_serializer.md R97). -/
theorem frameEvents_getElem?_latchPulse (p : Byte) (j : Nat) : (frameEvents p)[40 + j]? = latchPulse[j]? := by
  rw [frameEvents_eq_frameLoop, frameLoop, List.getElem?_append_right (Nat.le_add_right 40 j)]
  exact congrArg (latchPulse[·]?) (Nat.add_sub_cancel_left 40 j)

/-- Within a cell CLOCK rises at its third event only. -/
theorem eq_two_of_bitCell_clockRise {p : Byte} {i j : Nat} (h : (bitCell p i)[j]? = some (.set .clock true)) :
    j = 2 := by
  match j with
  | 2 => rfl
  | 0 | 1 | 3 | 4 | _ + 5 => simp [bitCell] at h

theorem latchPulse_not_clock (b : Bool) : Event.set .clock b ∉ latchPulse := by simp [latchPulse]

/-- A frame's CLOCK rises stand at the third event of its cells and nowhere else. -/
theorem exists_cell_of_clockRise {p : Byte} {k : Nat} (h : (frameEvents p)[k]? = some (.set .clock true)) :
    ∃ i, i < 8 ∧ k = 5 * i + 2 := by
  obtain hcells | hlatch := Nat.lt_or_ge k 40
  · have hk : 5 * (k / 5) + k % 5 = k := Nat.div_add_mod k 5
    rw [← hk, frameEvents_getElem?_cell p (by omega) (Nat.mod_lt k (by decide))] at h
    have hpos : k % 5 = 2 := eq_two_of_bitCell_clockRise h
    exact ⟨k / 5, by omega, by omega⟩
  · obtain ⟨j, rfl⟩ := Nat.exists_eq_add_of_le hlatch
    rw [frameEvents_getElem?_latchPulse] at h
    exact absurd (List.mem_of_getElem? h) (latchPulse_not_clock true)

/-- Settles O27: a CLOCK rise is the third event of some cell, and the four events around it are the rest of that
cell. -/
theorem dataIsSetUpBeforeTheClockRises : Obligations.DataIsSetUpBeforeTheClockRises := by
  intro p k hrise
  obtain ⟨i, hi, rfl⟩ := exists_cell_of_clockRise hrise
  have hbit : (5 * i + 2) / 5 = i := by omega
  refine ⟨by omega, ?data, ?setup, ?high, ?fall⟩
  case data =>
    rw [hbit, ← patternBit_eq_getLsbD]
    exact frameEvents_getElem?_cell p hi (j := 0) (by decide)
  case setup => exact frameEvents_getElem?_cell p hi (j := 1) (by decide)
  case high => exact frameEvents_getElem?_cell p hi (j := 3) (by decide)
  case fall => exact frameEvents_getElem?_cell p hi (j := 4) (by decide)

/-! ### The latch pulse after the cells -/

/-- The part of a frame before its latch pulse: the eight bit cells, bit 0 first. -/
def frameCells (p : Byte) : List Event := (List.range Config.nBits).flatMap (bitCell p)

theorem frameEvents_eq_cells_append_latchPulse (p : Byte) : frameEvents p = frameCells p ++ latchPulse :=
  frameEvents_eq_frameLoop p

@[simp] theorem frameCells_length (p : Byte) : (frameCells p).length = 40 := rfl

/-- The cells end with a falling edge of CLOCK. -/
theorem frameCells_drop_39 (p : Byte) : (frameCells p).drop 39 = [.set .clock false] := rfl

/-- All eight clock pulses of a frame are in its cells, none in the latch pulse. -/
theorem frameCells_count_clock (p : Byte) (b : Bool) : (frameCells p).count (.set .clock b) = 8 := by
  have hframe := frameEvents_count_clock p b
  rwa [frameEvents_eq_cells_append_latchPulse, List.count_append, latchPulse_count_clock, Nat.add_zero] at hframe

/-- No cell touches LATCH. -/
theorem frameCells_not_latch (p : Byte) (b : Bool) : Event.set .latch b ∉ frameCells p := by
  simp [frameCells, bitCell]

/-- Settles O26: the frame is its cells, the last of whose events is the eighth CLOCK fall, and then the latch pulse,
which begins with its delay. -/
theorem latchComesAfterTheLastBit : Obligations.LatchComesAfterTheLastBit := by
  intro p
  rw [frameEvents_eq_cells_append_latchPulse]
  refine ⟨?lastFallThenPulse, ?eightFalls, fun b => ?noEarlierLatch⟩
  case lastFallThenPulse =>
    rw [List.drop_append_of_le_length (by simp), frameCells_drop_39]
    rfl
  case eightFalls =>
    rw [List.take_left' (frameCells_length p)]
    exact frameCells_count_clock p false
  case noEarlierLatch =>
    have htake : (frameCells p ++ latchPulse).take 41 = frameCells p ++ [.delayShort] :=
      List.take_length_add_append (l₁ := frameCells p) 1
    rw [htake]
    simpa using frameCells_not_latch p b

end Sys2Proof.Proofs
end

section
/-! PROOFS. The operation word and the assembler text against the operations they spell (30_encoding.md R60 to R70). -/

namespace Sys2Proof.Proofs

/-! ### The fields of a word (30_encoding.md R60) -/

@[simp] theorem opField_opWord (op : BitVec 2) (d : Digit) : opField (opWord op d) = op := by
  revert op d; decide

@[simp] theorem rsvField_opWord (op : BitVec 2) (d : Digit) : rsvField (opWord op d) = 0b00#2 := by
  revert op d; decide

@[simp] theorem digitField_opWord (op : BitVec 2) (d : Digit) : digitField (opWord op d) = d := by
  revert op d; decide

/-- A word is its three fields side by side. -/
theorem fields_append (w : Byte) : opField w ++ rsvField w ++ digitField w = w := by
  ext i hi
  simp only [opField, rsvField, digitField, BitVec.getElem_append, BitVec.getElem_extractLsb']
  split_ifs
  case pos => simp [BitVec.getLsbD_eq_getElem hi]
  case pos => rw [show 4 + (i - 4) = i by omega, BitVec.getLsbD_eq_getElem hi]
  case neg => rw [show 6 + (i - 4 - 2) = i by omega, BitVec.getLsbD_eq_getElem hi]

/-- A word whose reserved bits are 00 is the word of its operation and digit fields. -/
theorem opWord_fields {w : Byte} (hrsv : rsvField w = 0b00#2) : opWord (opField w) (digitField w) = w := by
  rw [opWord, ← hrsv]
  exact fields_append w

/-! ### Decoding and encoding -/

/-- Every operation's word decodes to it. -/
theorem decode_encode (i : Instr) : decode (encode i) = .ok i := by
  cases i with
  | init => simp [decode, encode]
  | writeDigit d => simp [decode, encode]
  | teardown => simp [decode, encode]
  | encode d => simp [decode, encode]

/-- The two bits of an operation field that is none of INIT's, WRITE_DIGIT's and TEARDOWN's are ENCODE's. -/
theorem opField_eq_three {op : BitVec 2} (h0 : ¬op = 0b00#2) (h1 : ¬op = 0b01#2) (h2 : ¬op = 0b10#2) : op = 0b11#2 := by
  revert op; decide

/-- A word that decodes to an operation is the word of that operation: each branch of the decoder that answers one has
fixed the operation field, and where there is no operand the digit field too. -/
theorem encode_of_decode {w : Byte} {i : Instr} (h : decode w = .ok i) : encode i = w := by
  unfold decode at h
  by_cases hrsv : rsvField w = 0b00#2
  case neg => simp [hrsv] at h
  have hw : opWord (opField w) (digitField w) = w := opWord_fields hrsv
  rw [if_neg (not_not.mpr hrsv)] at h
  split_ifs at h with hinit hd hwrite hteardown hd <;> cases h
  · rwa [hinit, hd] at hw
  · rwa [hwrite] at hw
  · rwa [hteardown, hd] at hw
  · rwa [opField_eq_three hinit hwrite hteardown] at hw

/-- Settles O1: each direction is one of the two lemmas above. -/
theorem decodeEncodeAgree : Obligations.DecodeEncodeAgree :=
  ⟨decode_encode, fun _ _ => encode_of_decode⟩

theorem decode_eq_ok_iff (w : Byte) (i : Instr) : decode w = .ok i ↔ encode i = w :=
  ⟨encode_of_decode, fun h => h ▸ decode_encode i⟩

/-- The legal words are the words of the operations. -/
theorem decodedInstr_ne_none_iff (w : Byte) : decodedInstr (decode w) ≠ none ↔ ∃ i, encode i = w := by
  simp only [← decode_eq_ok_iff]
  cases decode w with
  | ok i => simp [decodedInstr]
  | error r => simp [decodedInstr]

/-! ### The legal words (30_encoding.md R63, R70) -/

/-- A word that matches a row of the opcode map is the word of an operation. -/
theorem exists_encode_of_rowMatches {w : Byte} {r : OpcodeRow} (hr : r ∈ opcodeMap) (h : rowMatches r w = true) :
    ∃ i, encode i = w := by
  have noOperand : ∀ m : Byte, w &&& 0xFF#8 = m → m = w := fun m hm => by
    rw [← hm]
    exact BitVec.and_allOnes (x := w)
  have writeDigit : ∀ v : Byte, v &&& 0xF0#8 = 0x40#8 → encode (.writeDigit (digitField v)) = v := by decide
  have encodeDigit : ∀ v : Byte, v &&& 0xF0#8 = 0xC0#8 → encode (.encode (digitField v)) = v := by decide
  simp only [rowMatches, beq_iff_eq] at h
  simp only [opcodeMap, List.mem_cons, List.not_mem_nil, or_false] at hr
  rcases hr with rfl | rfl | rfl | rfl
  · exact ⟨.init, noOperand _ h⟩
  · exact ⟨_, writeDigit w h⟩
  · exact ⟨.teardown, noOperand _ h⟩
  · exact ⟨_, encodeDigit w h⟩

/-- Each operation's word matches the row of its mnemonic and no other. -/
theorem matching_rows_encode (i : Instr) :
    (opcodeMap.filter fun r => rowMatches r (encode i)).map OpcodeRow.mnemonic = [i.toAsm.mnemonic] := by
  cases i with
  | init => exact Laws.OwnRow.init
  | writeDigit d => exact Laws.OwnRow.writeDigit d
  | teardown => exact Laws.OwnRow.teardown
  | encode d => exact Laws.OwnRow.encode d

/-- The low four bits of a word are its digit operand, unscaled (30_encoding.md R62). -/
theorem opWord_toNat_mod (op : BitVec 2) (d : Digit) : (opWord op d).toNat % 16 = d.toNat := by
  revert op d; decide

/-- Settles O2: the legal words are the words of the operations, and the count is a computation. -/
theorem legalWordsAreThirtyFour : Obligations.LegalWordsAreThirtyFour := by
  refine ⟨fun w => ?_, by decide⟩
  rw [decodedInstr_ne_none_iff]
  constructor
  · rintro ⟨i, rfl⟩
    cases i with
    | init => exact .inl rfl
    | writeDigit d => revert d; decide
    | teardown => exact .inr (.inr (.inl rfl))
    | encode d => revert d; decide
  · revert w
    simp only [← decodedInstr_ne_none_iff]
    decide

/-- Settles O3: a word that decodes is an operation's word, which lies in its own row and carries its operand in the low
four bits; and only such words match a row. -/
theorem decodeFollowsOpcodeMap : Obligations.DecodeFollowsOpcodeMap := by
  intro w
  refine ⟨fun i h => ?decoded, ?illegal⟩
  case decoded =>
    obtain rfl := encode_of_decode h
    refine ⟨matching_rows_encode i, ?_⟩
    cases i with
    | init => rfl
    | writeDigit d => exact congrArg some (opWord_toNat_mod _ d).symm
    | teardown => rfl
    | encode d => exact congrArg some (opWord_toNat_mod _ d).symm
  case illegal =>
    rw [← not_iff_not, ← ne_eq (decodedInstr _), decodedInstr_ne_none_iff]
    constructor
    · intro hmatch
      obtain ⟨r, hr, hrw⟩ : ∃ r ∈ opcodeMap, rowMatches r w = true := by simpa using hmatch
      exact exists_encode_of_rowMatches hr hrw
    · rintro ⟨i, rfl⟩ hnone
      have hempty : (opcodeMap.filter fun r => rowMatches r (encode i)) = [] := by
        simpa [List.filter_eq_nil_iff] using hnone
      simpa [hempty] using matching_rows_encode i

/-- Settles O4, by computation on the seven words. -/
theorem writtenWordsDecode : Obligations.WrittenWordsDecode := by
  refine ⟨?_, ?_, ?_, ?_, ?_, ?_, ?_⟩ <;> rfl

/-! ### Assembler terms and text (30_encoding.md R68) -/

theorem toAsm_wellFormed (i : Instr) : i.toAsm.wellFormed = true := by
  cases i with
  | init => rfl
  | writeDigit d => exact decide_eq_true d.isLt
  | teardown => rfl
  | encode d => exact decide_eq_true d.isLt

theorem asmToInstr_toAsm (i : Instr) : asmToInstr i.toAsm = some i := by
  rw [asmToInstr, if_pos (toAsm_wellFormed i)]
  cases i <;> simp [Instr.toAsm]

/-- A digit below 16 is the value of its 4-bit operand. -/
theorem toNat_digit_of_lt {v : Nat} (h : v < Config.nDigits) : (BitVec.ofNat 4 v).toNat = v :=
  Nat.mod_eq_of_lt h

theorem exists_toAsm_of_wellFormed {t : AsmTerm} (h : t.wellFormed = true) : ∃ i : Instr, t = i.toAsm := by
  obtain ⟨m, o⟩ := t
  match m, o with
  | .init, none => exact ⟨.init, rfl⟩
  | .teardown, none => exact ⟨.teardown, rfl⟩
  | .writeDigit, some v =>
    exact ⟨.writeDigit (BitVec.ofNat 4 v), by rw [Instr.toAsm, toNat_digit_of_lt (of_decide_eq_true h)]⟩
  | .encode, some v =>
    exact ⟨.encode (BitVec.ofNat 4 v), by rw [Instr.toAsm, toNat_digit_of_lt (of_decide_eq_true h)]⟩
  | .init, some _ | .teardown, some _ | .writeDigit, none | .encode, none => cases h

/-- Settles O5: a term that spells an operation is well-formed, and a well-formed term is an operation's. -/
theorem asmTermsAreTheOperations : Obligations.AsmTermsAreTheOperations := by
  refine ⟨fun t i => ⟨fun h => ?_, ?_⟩, fun t => ⟨exists_toAsm_of_wellFormed, ?_⟩⟩
  · have hwf : t.wellFormed = true := by
      by_contra hn
      simp [asmToInstr, hn] at h
    obtain ⟨j, rfl⟩ := exists_toAsm_of_wellFormed hwf
    rw [asmToInstr_toAsm] at h
    rw [Option.some.inj h]
  · rintro rfl
    exact asmToInstr_toAsm i
  · rintro ⟨i, rfl⟩
    exact toAsm_wellFormed i

theorem asmMnemonic_mnemonicText (m : Mnemonic) : asmMnemonic (mnemonicText m) = some m := by
  cases m <;> rfl

theorem splitAtSpace_append {cs : List Char} (h : ' ' ∉ cs) (ds : List Char) :
    splitAtSpace (cs ++ ' ' :: ds) = (cs, some ds) := by
  induction cs with
  | nil => rfl
  | cons c cs ih =>
    rw [List.mem_cons, not_or] at h
    simp [splitAtSpace, Ne.symm h.1, ih h.2]

theorem splitAtSpace_of_not_mem {cs : List Char} (h : ' ' ∉ cs) : splitAtSpace cs = (cs, none) := by
  induction cs with
  | nil => rfl
  | cons c cs ih =>
    rw [List.mem_cons, not_or] at h
    simp [splitAtSpace, Ne.symm h.1, ih h.2]

theorem space_not_mem_mnemonicText (m : Mnemonic) : ' ' ∉ mnemonicText m := by
  cases m <;> decide

theorem parseAsm_mnemonic (m : Mnemonic) : parseAsm (mnemonicText m) = some ⟨m, none⟩ := by
  simp only [parseAsm, splitAtSpace_of_not_mem (space_not_mem_mnemonicText m), asmMnemonic_mnemonicText]

theorem parseAsm_mnemonic_digit {ds : List Char} {v : Nat} (m : Mnemonic) (h : asmDigit ds = some v) :
    parseAsm (mnemonicText m ++ ' ' :: ds) = some ⟨m, some v⟩ := by
  simp only [parseAsm, splitAtSpace_append (space_not_mem_mnemonicText m), asmMnemonic_mnemonicText, h, Option.map_some]

theorem asmDigit_decimal (d : Digit) : asmDigit (decimalSpellings.getD d.toNat []) = some d.toNat := by
  revert d; decide

theorem asmDigit_hex (d : Digit) : asmDigit (hexSpellings.getD d.toNat []) = some d.toNat := by
  revert d; decide

/-- A text that spells an operation's term assembles to the operation. -/
theorem assemble_of_parseAsm {cs : List Char} {i : Instr} (h : parseAsm cs = some i.toAsm) : assemble cs = some i := by
  rw [assemble, h]
  exact asmToInstr_toAsm i

/-- Settles O6: the text is cut at the one space after the mnemonic, and each spelling of a digit names it. -/
theorem assemblerReadsOperationText : Obligations.AssemblerReadsOperationText := by
  refine ⟨fun i => assemble_of_parseAsm ?_, fun d => ⟨assemble_of_parseAsm ?_, assemble_of_parseAsm ?_⟩⟩
  · cases i with
    | init => exact parseAsm_mnemonic .init
    | writeDigit d => exact parseAsm_mnemonic_digit .writeDigit (asmDigit_decimal d)
    | teardown => exact parseAsm_mnemonic .teardown
    | encode d => exact parseAsm_mnemonic_digit .encode (asmDigit_decimal d)
  · exact parseAsm_mnemonic_digit .writeDigit (asmDigit_hex d)
  · exact parseAsm_mnemonic_digit .encode (asmDigit_hex d)

end Sys2Proof.Proofs
end

section
/-! PROOFS. What each operation of the block does, said once in closed form (40_encoder.md R81, 41_serializer.md R90 to
R105), and what stops one (10_state.md R29, 60_exceptions.md R163, R164, R174). -/

namespace Sys2Proof.Proofs

open Sys2Proof.Machine

/-! ### When an operation has no step -/

/-- Whatever stops one operation stops each of them. -/
theorem exec_of_opStop {s : State} {r : Fault} (h : opStop s = some r) (i : Instr) : exec i s = .fault r := by
  have hrun (f : State → State) : runOp f s = .fault r := by rw [runOp, h]
  cases i <;> exact hrun _

theorem opStop_of_markStop {s : State} {r : Fault} (h : markStop s = some r) : opStop s = some r := by
  rw [opStop, h]

theorem step_of_markStop {s : State} {r : Fault} (h : markStop s = some r) : step s = .fault r := by
  rw [step, machineStep, h]

/-- A mark stops the machine and every operation with the same fault. -/
theorem no_step_of_markStop {s : State} {r : Fault} (h : markStop s = some r) :
    step s = .fault r ∧ ∀ i, exec i s = .fault r :=
  ⟨step_of_markStop h, exec_of_opStop (opStop_of_markStop h)⟩

/-- Settles O9: each mark is what `markStop` answers, the fault mark first. -/
theorem markedMachineHasNoStep : Obligations.MarkedMachineHasNoStep := by
  refine fun s => ⟨fun k hfault => no_step_of_markStop ?_, fun w hfault hrefused => no_step_of_markStop ?_⟩
  · rw [markStop, hfault]
  · rw [markStop, hfault, hrefused]

/-- Settles O10: with no mark set, the position in the frame is what stops an operation. -/
theorem operationDuringFrameHasNoStep : Obligations.OperationDuringFrameHasNoStep := by
  intro s d k hunmarked hseq i
  have hstop : opStop s = some (.operationInProgress d k) := by
    rw [opStop, (markStop_eq_none s).mpr hunmarked, hseq]
  exact exec_of_opStop hstop i

/-! ### INIT (41_serializer.md R90 to R94) -/

/-- What an INIT emits whose first unavailable line is `l` (41_serializer.md R92; the order is 92_eei_decisions.md D8's
and D9's). -/
def initFailureEvents : Line → List Event
  | .data => [.acquire .data .unavailable, .log .configurationError (.line .data)]
  | .clock =>
    [.acquire .data .ok, .acquire .clock .unavailable, .release .data, .log .configurationError (.line .clock)]
  | .latch =>
    [.acquire .data .ok, .acquire .clock .ok, .acquire .latch .unavailable, .release .clock, .release .data,
     .log .configurationError (.line .latch)]

/-- The values of the lines with those released that an INIT acquires before it fails at `l`. -/
def releaseBefore {α : Type} (l : Line) (p : PerLine (Option α)) : PerLine (Option α) :=
  match l with
  | .data => p
  | .clock => { p with data := none }
  | .latch => { p with data := none, clock := none }

@[simp] theorem releaseBefore_fill_none {α : Type} (l : Line) :
    releaseBefore l (PerLine.fill (none : Option α)) = PerLine.fill none := by
  cases l <;> rfl

theorem initEffect_of_uninit {s : State} (h : s.block.drv = .uninit) : initEffect s = acquireLines lineOrder [] s :=
  if_pos h

theorem initEffect_of_ne_uninit {s : State} (h : s.block.drv ≠ .uninit) :
    initEffect s = raiseUsageFault .initAgain s :=
  if_neg h

theorem initEffect_acquires {s : State} {a b c : Handle} (hdrv : s.block.drv = .uninit)
    (hanswers : s.answers = ⟨.ok a, .ok b, .ok c⟩) :
    initEffect s = { s with
      block := { s.block with
        drv := .active
        h := ⟨some a, some b, some c⟩
        lv := ⟨some false, some false, some false⟩
        trace := s.block.trace ++
          [.acquire .data .ok, .acquire .clock .ok, .acquire .latch .ok,
           .setOutput .data false, .setOutput .clock false, .setOutput .latch false] }
      obs := .allUnknown } := by
  obtain ⟨cfg, answers, block, host, obs, free⟩ := s
  subst hanswers
  rw [initEffect_of_uninit hdrv]
  simp [lineOrder, acquireLines, enterActive, gpioAcquired_eq, gpioSetOutput_eq, setDrv, PerLine.get, PerLine.set]

theorem initEffect_fails {s : State} {l : Line} (hdrv : s.block.drv = .uninit)
    (hfirst : firstUnavailable s.answers = some l) :
    initEffect s = { s with
      block := { s.block with
        drv := .inert
        h := releaseBefore l s.block.h
        lv := releaseBefore l s.block.lv
        trace := s.block.trace ++ initFailureEvents l }
      obs := .allUnknown } := by
  obtain ⟨cfg, ⟨ad, ac, al⟩, block, host, obs, free⟩ := s
  rw [initEffect_of_uninit hdrv]
  cases ad with
  | unavailable =>
    cases hfirst
    simp [lineOrder, acquireLines, enterInert, releaseAll, logDiagnostic, emit, setDrv, PerLine.get, observe,
      initFailureEvents, releaseBefore]
  | ok a =>
    cases ac with
    | unavailable =>
      cases hfirst
      simp [lineOrder, acquireLines, enterInert, releaseAll, logDiagnostic, emit, setDrv, PerLine.get, PerLine.set,
        observe, gpioAcquired_eq, gpioRelease_eq, initFailureEvents, releaseBefore]
    | ok b =>
      cases al with
      | unavailable =>
        cases hfirst
        simp [lineOrder, acquireLines, enterInert, releaseAll, logDiagnostic, emit, setDrv, PerLine.get, PerLine.set,
          observe, gpioAcquired_eq, gpioRelease_eq, initFailureEvents, releaseBefore]
      | ok c => cases hfirst

/-- The service answers every line with a handle, or there is a first line that it does not. -/
theorem answers_cases (p : PerLine Answer) :
    (∃ a b c, p = ⟨.ok a, .ok b, .ok c⟩) ∨ ∃ l, firstUnavailable p = some l := by
  obtain ⟨_ | a, _ | b, _ | c⟩ := p
  case ok.ok.ok => exact .inl ⟨_, _, _, rfl⟩
  all_goals exact .inr ⟨_, rfl⟩

/-! ### WRITE_DIGIT (41_serializer.md R95 to R100) -/

theorem writeDigitEffect_of_active (d : Digit) {s : State} (h : s.block.drv = .active) :
    writeDigitEffect d s = setSeq (.inWrite d 0) s := by
  rw [writeDigitEffect, h]

theorem writeDigitEffect_of_uninit (d : Digit) {s : State} (h : s.block.drv = .uninit) :
    writeDigitEffect d s = raiseUsageFault .notInitialized s := by
  rw [writeDigitEffect, h]

theorem writeDigitEffect_of_released (d : Digit) {s : State} (h : s.block.drv = .released) :
    writeDigitEffect d s = raiseUsageFault .afterTeardown s := by
  rw [writeDigitEffect, h]

/-! ### TEARDOWN (41_serializer.md R104, R105) -/

theorem teardownEffect_of_active {s : State} (h : s.block.drv = .active) :
    teardownEffect s = { s with
      block := { s.block with
        drv := .released
        h := PerLine.fill none
        lv := PerLine.fill none
        trace := s.block.trace ++ [.release .data, .release .clock, .release .latch] }
      obs := .allUnknown } := by
  simp [teardownEffect, h, lineOrder, releaseAll, gpioRelease_eq, setDrv, PerLine.set, PerLine.fill]

theorem teardownEffect_of_ne_active {s : State} (h : s.block.drv ≠ .active) :
    teardownEffect s = setDrv .released s := by
  rw [teardownEffect, if_neg h]

/-! ### Everything an issued operation can do -/

/-- The ten ways in which an operation that may be issued takes `s` to `t`. -/
inductive Executes : Instr → State → State → Prop where
  | initAcquires {s : State} {a b c : Handle} (hdrv : s.block.drv = .uninit)
      (hanswers : s.answers = ⟨.ok a, .ok b, .ok c⟩) :
      Executes .init s { s with
        block := { s.block with
          drv := .active
          h := ⟨some a, some b, some c⟩
          lv := ⟨some false, some false, some false⟩
          trace := s.block.trace ++
            [.acquire .data .ok, .acquire .clock .ok, .acquire .latch .ok,
             .setOutput .data false, .setOutput .clock false, .setOutput .latch false] }
        obs := .allUnknown }
  | initFails {s : State} {l : Line} (hdrv : s.block.drv = .uninit) (hfirst : firstUnavailable s.answers = some l) :
      Executes .init s { s with
        block := { s.block with
          drv := .inert
          h := releaseBefore l s.block.h
          lv := releaseBefore l s.block.lv
          trace := s.block.trace ++ initFailureEvents l }
        obs := .allUnknown }
  | initAgain {s : State} (hdrv : s.block.drv ≠ .uninit) : Executes .init s (raiseUsageFault .initAgain s)
  | writeBegins {s : State} {d : Digit} (hdrv : s.block.drv = .active) :
      Executes (.writeDigit d) s (setSeq (.inWrite d 0) s)
  | writeInert {s : State} {d : Digit} (hdrv : s.block.drv = .inert) : Executes (.writeDigit d) s s
  | writeUninit {s : State} {d : Digit} (hdrv : s.block.drv = .uninit) :
      Executes (.writeDigit d) s (raiseUsageFault .notInitialized s)
  | writeReleased {s : State} {d : Digit} (hdrv : s.block.drv = .released) :
      Executes (.writeDigit d) s (raiseUsageFault .afterTeardown s)
  | teardownReleases {s : State} (hdrv : s.block.drv = .active) :
      Executes .teardown s { s with
        block := { s.block with
          drv := .released
          h := PerLine.fill none
          lv := PerLine.fill none
          trace := s.block.trace ++ [.release .data, .release .clock, .release .latch] }
        obs := .allUnknown }
  | teardownUnheld {s : State} (hdrv : s.block.drv ≠ .active) : Executes .teardown s (setDrv .released s)
  | encodes {s : State} {d : Digit} : Executes (.encode d) s (reply (.pattern (memReadSeg d)) s)

theorem executes_init (s : State) : Executes .init s (initEffect s) := by
  by_cases hdrv : s.block.drv = .uninit
  · rcases answers_cases s.answers with ⟨a, b, c, hanswers⟩ | ⟨l, hfirst⟩
    · rw [initEffect_acquires hdrv hanswers]
      exact .initAcquires hdrv hanswers
    · rw [initEffect_fails hdrv hfirst]
      exact .initFails hdrv hfirst
  · rw [initEffect_of_ne_uninit hdrv]
    exact .initAgain hdrv

theorem executes_writeDigit (d : Digit) (s : State) : Executes (.writeDigit d) s (writeDigitEffect d s) := by
  cases hdrv : s.block.drv with
  | uninit =>
    rw [writeDigitEffect_of_uninit d hdrv]
    exact .writeUninit hdrv
  | active =>
    rw [writeDigitEffect_of_active d hdrv]
    exact .writeBegins hdrv
  | inert =>
    rw [writeDigitEffect_of_inert d hdrv]
    exact .writeInert hdrv
  | released =>
    rw [writeDigitEffect_of_released d hdrv]
    exact .writeReleased hdrv

theorem executes_teardown (s : State) : Executes .teardown s (teardownEffect s) := by
  by_cases hdrv : s.block.drv = .active
  · rw [teardownEffect_of_active hdrv]
    exact .teardownReleases hdrv
  · rw [teardownEffect_of_ne_active hdrv]
    exact .teardownUnheld hdrv

/-- An operation answers a next state only where it may be issued, and then in one of these ways. -/
theorem exec_next_cases {i : Instr} {s t : State} (h : exec i s = .next t) : s.Ready ∧ Executes i s t := by
  obtain ⟨hready, rfl⟩ := (exec_next_iff i s t).mp h
  refine ⟨hready, ?_⟩
  cases i with
  | init => exact executes_init s
  | writeDigit d => exact executes_writeDigit d s
  | teardown => exact executes_teardown s
  | encode d => exact .encodes

/-! ### The operations from a state that may issue one -/

theorem exec_init_of_ready {s : State} (h : s.Ready) : exec .init s = .next (initEffect s) :=
  runOp_of_ready _ h

theorem exec_writeDigit_of_ready {s : State} (d : Digit) (h : s.Ready) :
    exec (.writeDigit d) s = .next (writeDigitEffect d s) :=
  runOp_of_ready _ h

theorem exec_teardown_of_ready {s : State} (h : s.Ready) : exec .teardown s = .next (teardownEffect s) :=
  runOp_of_ready _ h

/-- Settles O12: a ready block runs INIT's effect, whose success path is the closed form above. -/
theorem initAcquiresAndDrivesLow : Obligations.InitAcquiresAndDrivesLow := by
  intro s a b c hready hdrv hanswers
  rw [exec_init_of_ready hready, initEffect_acquires hdrv hanswers]

theorem initFailureEvents_filter_isLog (l : Line) :
    (initFailureEvents l).filter isLog = [.log .configurationError (.line l)] := by
  cases l <;> rfl

theorem drivesLine_initFailureEvents (l : Line) : ∀ e ∈ initFailureEvents l, drivesLine e = false := by
  cases l <;> decide

/-- Settles O13: no line was held or driven before, so releasing the lines acquired leaves none. -/
theorem initFailureLeavesInert : Obligations.InitFailureLeavesInert := by
  intro s l hready hdrv hnoLine hfirst
  obtain ⟨hh, hlv⟩ := hnoLine
  refine ⟨initFailureEvents l, ?_, initFailureEvents_filter_isLog l, drivesLine_initFailureEvents l⟩
  rw [exec_init_of_ready hready, initEffect_fails hdrv hfirst, hh, hlv, releaseBefore_fill_none,
    releaseBefore_fill_none, ← hh, ← hlv]

/-- Settles O14: outside UNINIT INIT's effect is the fault mark. -/
theorem initAgainSetsFaultMark : Obligations.InitAgainSetsFaultMark := by
  intro s hready hdrv
  rw [exec_init_of_ready hready, initEffect_of_ne_uninit hdrv, raiseUsageFault]

/-- Settles O17: the two lifecycle states in which WRITE_DIGIT's effect is a fault mark. -/
theorem writeDigitOutsideLifetimeSetsFaultMark : Obligations.WriteDigitOutsideLifetimeSetsFaultMark := by
  intro s d hready
  rw [exec_writeDigit_of_ready d hready]
  refine ⟨fun hdrv => ?_, fun hdrv => ?_⟩
  · rw [writeDigitEffect_of_uninit d hdrv, raiseUsageFault]
  · rw [writeDigitEffect_of_released d hdrv, raiseUsageFault]

/-- Settles O18: the events are the three releases in the model's own order. -/
theorem teardownReleasesTheLines : Obligations.TeardownReleasesTheLines := by
  intro s hready hdrv
  exact ⟨_, .refl _, by rw [exec_teardown_of_ready hready, teardownEffect_of_active hdrv]⟩

/-- Settles O19: outside ACTIVE there is nothing to release. -/
theorem teardownWithoutLinesEmitsNothing : Obligations.TeardownWithoutLinesEmitsNothing := by
  intro s hready hdrv
  rw [exec_teardown_of_ready hready, teardownEffect_of_ne_active hdrv, setDrv]

/-- Settles O20: the lifecycle is not consulted. -/
theorem encodeReturnsTheEntry : Obligations.EncodeReturnsTheEntry :=
  fun _ _ hready => runOp_of_ready _ hready

/-! ### The segment table (40_encoder.md R80, R82) -/

/-- Settles O21: the entries are compared one by one, and the writes of DATA in a frame spell the pattern. -/
theorem segmentTableHoldsTheLiterals : Obligations.SegmentTableHoldsTheLiterals :=
  ⟨rfl, fun d => frameEvents_dataWrites (memReadSeg d)⟩

/-- Settles O22: a digit is an index of the table, and any other index fails the range check. -/
theorem wideLookupRefusesOutsideTable : Obligations.WideLookupRefusesOutsideTable := by
  refine ⟨fun d => ?_, fun index h => ?_⟩
  · have hlt : d.toNat < 16 := d.isLt
    rw [wideLookup, if_pos (by omega), BitVec.ofInt_natCast, BitVec.ofNat_toNat, BitVec.setWidth_eq]
  · rw [wideLookup, if_neg (by omega)]

/-! ### A word issued to the block -/

theorem issueWord_of_decode {w : Byte} {i : Instr} (h : decode w = .ok i) (s : State) : issueWord w s = exec i s := by
  rw [issueWord, h]

theorem issueWord_of_illegal {w : Byte} {r : Illegal} (h : decode w = .error r) (s : State) :
    issueWord w s = .next (refuseIllegal w s) := by
  rw [issueWord, h]

/-- Settles O7: on both paths the word reaches the block by `issueWord`. -/
theorem stepRunsDecodedWord : Obligations.StepRunsDecodedWord := by
  intro s w i hdecode
  refine ⟨fun rest hturn hreq => ?atHostTurn, fun todo r hready hcall => ?inAccept⟩
  case atHostTurn =>
    rw [step_of_hostTurn hturn, takeRequest_word hreq, issueWord_of_decode hdecode, setRequests]
  case inAccept =>
    rw [step_of_running hready hcall, continueCall, runAction, issueWord_of_decode hdecode, setCall]

/-- Settles O8: the decoder is consulted before the lifecycle. -/
theorem illegalWordSetsRefusalMark : Obligations.IllegalWordSetsRefusalMark := by
  intro s w r rest hturn hreq hdecode
  rw [step_of_hostTurn hturn, takeRequest_word hreq, issueWord_of_illegal hdecode, setRequests, refuseIllegal]

end Sys2Proof.Proofs
end

section
/-! PROOFS. What every step keeps of the block and its observer, from what one step can do (10_state.md R21 to R29,
41_serializer.md R96 to R103, 60_exceptions.md R163 to R171). -/

namespace Sys2Proof.Proofs

open Sys2Proof.Machine

/-! ### One event of a frame -/

theorem writeEvent_eq (d : Digit) (k : Fin 44) (s : State) :
    writeEvent d k s = { s with
      block := { s.block with
        trace := s.block.trace ++ [frameEvent (memReadSeg d) k.val]
        lv := levelsAfter s.block.lv (frameEvent (memReadSeg d) k.val)
        seq := seqAfter d k }
      obs := observe s.block.lv (frameEvent (memReadSeg d) k.val) s.obs } := by
  rw [writeEvent, frameAct_eq, setSeq]

theorem seqAfter_last {d : Digit} {k : Fin 44} (h : k.val = 43) : seqAfter d k = .idle :=
  dif_neg (by omega)

theorem seqAfter_of_succ {d : Digit} {k j : Fin 44} (h : j.val = k.val + 1) : seqAfter d k = .inWrite d j := by
  rw [seqAfter, dif_pos (h ▸ j.isLt)]
  exact congrArg (Seq.inWrite d) (Fin.ext h.symm)

/-- After event `k` a frame is either at its end or before event `k + 1`. -/
theorem seqAfter_cases (d : Digit) (k : Fin 44) :
    (k.val = 43 ∧ seqAfter d k = .idle) ∨ ∃ j : Fin 44, j.val = k.val + 1 ∧ seqAfter d k = .inWrite d j := by
  by_cases h : k.val + 1 < 44
  · exact .inr ⟨⟨k.val + 1, h⟩, rfl, seqAfter_of_succ rfl⟩
  · have hk : k.val = 43 := by omega
    exact .inl ⟨hk, seqAfter_last hk⟩

/-- Settles O11: the position that follows is `seqAfter`. -/
theorem frameStepEmitsNextEvent : Obligations.FrameStepEmitsNextEvent := by
  intro s d k hunmarked hseq
  refine ⟨seqAfter d k, ?_, seqAfter_last, fun j => seqAfter_of_succ⟩
  rw [step_of_frame hunmarked hseq, writeEvent_eq]

/-! ### Induction over the ways of a step -/

/-- A property of the block and the observer is kept by every step if each of the four ways of a step keeps it: an event
of a frame, an operation, a refusal, and the host's events, which only enter the trace. -/
theorem step_keeps {P : State → Prop}
    (frame : ∀ s d k, s.Unmarked → s.block.seq = .inWrite d k → P s → P (writeEvent d k s))
    (op : ∀ i s t, s.Ready → Executes i s t → P s → P t)
    (refuse : ∀ w s, s.Ready → P s → P (refuseIllegal w s))
    (host : ∀ s t es, s.Ready → (∀ e ∈ es, IsHostEvent e) →
      t.block = { s.block with trace := s.block.trace ++ es } → t.obs = s.obs → P s → P t)
    {s t : State} (h : step s = .next t) (hs : P s) : P t := by
  have sameBlock {u : State} (hready : s.Ready) (hsame : SameBlock s u) : u.Ready ∧ P u := by
    obtain ⟨-, -, hblock, hobs⟩ := hsame
    exact ⟨by rwa [State.Ready, State.Unmarked, hblock],
      host s u [] hready (by simp) (by rw [hblock, List.append_nil]) hobs hs⟩
  obtain ⟨hunmarked, ⟨d, k, hseq, rfl⟩ | ⟨hidle, i, u, -, hsame, hexec⟩ | ⟨hidle, w, u, hsame, rfl⟩ |
    ⟨hidle, es, hes, -, -, hblock, hobs⟩⟩ := step_block_cases h
  case inl => exact frame s d k hunmarked hseq hs
  case inr.inl =>
    obtain ⟨hready, hex⟩ := exec_next_cases hexec
    exact op i u t hready hex (sameBlock ⟨hunmarked, hidle⟩ hsame).2
  case inr.inr.inl =>
    obtain ⟨hready, hu⟩ := sameBlock ⟨hunmarked, hidle⟩ hsame
    exact refuse w u hready hu
  case inr.inr.inr => exact host s t es ⟨hunmarked, hidle⟩ hes hblock hobs hs

/-! ### The lifecycle and the lines (10_state.md R22 to R24) -/

theorem lifecycleInv_of_active {s : State} (hdrv : s.block.drv = .active)
    (hlines : ∀ l, s.block.h.get l ≠ none ∧ s.block.lv.get l ≠ none) : LifecycleInv s :=
  ⟨fun _ => hlines, fun hn => absurd hdrv hn⟩

theorem lifecycleInv_of_noLine {s : State} (hdrv : s.block.drv ≠ .active) (hnoLine : s.NoLine)
    (hseq : s.block.seq = .idle) : LifecycleInv s :=
  ⟨fun ha => absurd ha hdrv, fun _ => ⟨hnoLine, hseq⟩⟩

theorem lifecycleInv_congr {s t : State} (hdrv : t.block.drv = s.block.drv) (hh : t.block.h = s.block.h)
    (hlv : t.block.lv = s.block.lv) (hseq : t.block.seq = s.block.seq) (hs : LifecycleInv s) : LifecycleInv t := by
  simpa only [LifecycleInv, State.NoLine, hdrv, hh, hlv, hseq] using hs

theorem active_of_frame {s : State} {d : Digit} {k : Fin 44} (hs : LifecycleInv s) (hseq : s.block.seq = .inWrite d k) :
    s.block.drv = .active := by
  by_contra hdrv
  simp [(hs.2 hdrv).2] at hseq

/-- An event of a frame takes no line away. -/
theorem levelsAfter_frameEvent_ne_none {lv : PerLine (Option Bool)} (p : Byte) (k : Nat) {l : Line}
    (h : lv.get l ≠ none) : (levelsAfter lv (frameEvent p k)).get l ≠ none := by
  rcases frameEvent_cases p k with he | ⟨m, b, he⟩
  · rwa [he]
  · rw [he, levelsAfter]
    by_cases hl : l = m
    · simp [hl]
    · rwa [perLine_get_set_other _ _ hl]

theorem lifecycleInv_frame {s : State} {d : Digit} {k : Fin 44} (hseq : s.block.seq = .inWrite d k)
    (hs : LifecycleInv s) : LifecycleInv (writeEvent d k s) := by
  have hdrv := active_of_frame hs hseq
  rw [writeEvent_eq]
  refine lifecycleInv_of_active hdrv fun l => ?_
  obtain ⟨hh, hlv⟩ := hs.1 hdrv l
  exact ⟨hh, levelsAfter_frameEvent_ne_none _ _ hlv⟩

theorem lifecycleInv_op {i : Instr} {s t : State} (hready : s.Ready) (h : Executes i s t) (hs : LifecycleInv s) :
    LifecycleInv t := by
  obtain ⟨-, hidle⟩ := hready
  cases h with
  | initAcquires hdrv hanswers => exact lifecycleInv_of_active rfl fun l => by cases l <;> simp [PerLine.get]
  | initFails hdrv hfirst =>
    obtain ⟨⟨hh, hlv⟩, -⟩ := hs.2 (by simp [hdrv])
    refine lifecycleInv_of_noLine (by simp) ⟨?_, ?_⟩ hidle
    · simp only [hh, releaseBefore_fill_none]
    · simp only [hlv, releaseBefore_fill_none]
  | initAgain hdrv => exact lifecycleInv_congr rfl rfl rfl rfl hs
  | writeBegins hdrv => exact lifecycleInv_of_active hdrv (hs.1 hdrv)
  | writeInert hdrv => exact hs
  | writeUninit hdrv => exact lifecycleInv_congr rfl rfl rfl rfl hs
  | writeReleased hdrv => exact lifecycleInv_congr rfl rfl rfl rfl hs
  | teardownReleases hdrv => exact lifecycleInv_of_noLine (by simp) ⟨rfl, rfl⟩ hidle
  | teardownUnheld hdrv => exact lifecycleInv_of_noLine (by simp) (hs.2 hdrv).1 hidle
  | encodes => exact hs

theorem lifecycleInv_host {s t : State} {es : List Event}
    (hblock : t.block = { s.block with trace := s.block.trace ++ es }) (hs : LifecycleInv s) : LifecycleInv t :=
  lifecycleInv_congr (by rw [hblock]) (by rw [hblock]) (by rw [hblock]) (by rw [hblock]) hs

/-- Settles O50: the invariant is kept in each of the four ways of a step. -/
theorem stepKeepsLifecycleInv : Obligations.StepKeepsLifecycleInv := by
  intro s t hs h
  refine step_keeps (P := LifecycleInv) ?frame ?op ?refuse ?host h hs
  case frame => exact fun _ _ _ _ hseq hs => lifecycleInv_frame hseq hs
  case op => exact fun _ _ _ hready hex hs => lifecycleInv_op hready hex hs
  case refuse => exact fun _ _ _ hs => lifecycleInv_congr rfl rfl rfl rfl hs
  case host => exact fun _ _ _ _ _ hblock _ hs => lifecycleInv_host hblock hs

/-! ### The levels on the wires (41_serializer.md R96, R97, R101) -/

theorem levelsAfter_frameEvent_clock (lv : PerLine (Option Bool)) (p : Byte) (k : Nat) :
    (levelsAfter lv (frameEvent p k)).clock =
      if k < 40 ∧ k % 5 = 2 then some true else if k < 40 ∧ k % 5 = 4 then some false else lv.clock := by
  simp only [frameEvent]
  split_ifs <;> simp only [levelsAfter, PerLine.set] <;> omega

theorem levelsAfter_frameEvent_latch (lv : PerLine (Option Bool)) (p : Byte) (k : Nat) :
    (levelsAfter lv (frameEvent p k)).latch =
      if k = 41 then some true else if 43 ≤ k then some false else lv.latch := by
  simp only [frameEvent]
  split_ifs <;> simp only [levelsAfter, PerLine.set] <;> omega

theorem levelsAfter_frameEvent_data (lv : PerLine (Option Bool)) (p : Byte) (k : Nat) :
    (levelsAfter lv (frameEvent p k)).data =
      if k < 40 ∧ k % 5 = 0 then some (patternBit p (k / 5)) else lv.data := by
  simp only [frameEvent]
  split_ifs <;> simp only [levelsAfter, PerLine.set] <;> omega
/-- The levels on the three lines before event `k` of the frame of pattern `p`; at 44 the frame is over. -/
def LevelsBefore (p : Byte) (k : Nat) (lv : PerLine (Option Bool)) : Prop :=
  lv.clock = some (decide (k < 40 ∧ 3 ≤ k % 5)) ∧ lv.latch = some (decide (42 ≤ k ∧ k < 44)) ∧
  (1 ≤ k → lv.data = some (patternBit p (min (k - 1) 39 / 5)))

/-- CLOCK is high from the third event of a cell to its fifth, LATCH from event 41 to event 43, and DATA stays at the
bit last written. -/
theorem levelsBefore_succ {p : Byte} {k : Nat} {lv : PerLine (Option Bool)} (hk : k < 44) (h : LevelsBefore p k lv) :
    LevelsBefore p (k + 1) (levelsAfter lv (frameEvent p k)) := by
  obtain ⟨hclock, hlatch, hdata⟩ := h
  refine ⟨?clock, ?latch, fun _ => ?data⟩
  case clock =>
    rw [levelsAfter_frameEvent_clock, hclock]
    split_ifs <;> simp only [Option.some.injEq, Bool.true_eq, Bool.false_eq, decide_eq_true_eq, decide_eq_false_iff_not,
      decide_eq_decide] <;> omega
  case latch =>
    rw [levelsAfter_frameEvent_latch, hlatch]
    split_ifs <;> simp only [Option.some.injEq, Bool.true_eq, Bool.false_eq, decide_eq_true_eq, decide_eq_false_iff_not,
      decide_eq_decide] <;> omega
  case data =>
    rw [levelsAfter_frameEvent_data]
    split_ifs with hwrite
    · rw [show min (k + 1 - 1) 39 / 5 = k / 5 by omega]
    · rw [hdata (by omega), show min (k + 1 - 1) 39 / 5 = min (k - 1) 39 / 5 by omega]

theorem wireInv_of_idle {s : State} (hseq : s.block.seq = .idle)
    (h : s.block.drv = .active → s.block.lv.clock = some false ∧ s.block.lv.latch = some false) : WireInv s := by
  intro hdrv
  rw [hseq]
  exact h hdrv

theorem levels_low_of_idle {s : State} (hs : WireInv s) (hseq : s.block.seq = .idle) (hdrv : s.block.drv = .active) :
    s.block.lv.clock = some false ∧ s.block.lv.latch = some false := by
  have h := hs hdrv
  rwa [hseq] at h

theorem wireInv_iff_of_frame {s : State} {d : Digit} {k : Fin 44} (hseq : s.block.seq = .inWrite d k) :
    WireInv s ↔ (s.block.drv = .active → LevelsBefore (memReadSeg d) k.val s.block.lv) := by
  have hlatch : (42 ≤ k.val ∧ k.val < 44) ↔ 42 ≤ k.val := and_iff_left k.isLt
  simp only [WireInv, hseq, LevelsBefore, hlatch]

theorem wireInv_congr {s t : State} (hdrv : t.block.drv = s.block.drv) (hlv : t.block.lv = s.block.lv)
    (hseq : t.block.seq = s.block.seq) (hs : WireInv s) : WireInv t := by
  simpa only [WireInv, hdrv, hlv, hseq] using hs

theorem wireInv_frame {s : State} {d : Digit} {k : Fin 44} (hseq : s.block.seq = .inWrite d k) (hs : WireInv s) :
    WireInv (writeEvent d k s) := by
  have hafter (hdrv : s.block.drv = .active) :
      LevelsBefore (memReadSeg d) (k.val + 1) (levelsAfter s.block.lv (frameEvent (memReadSeg d) k.val)) :=
    levelsBefore_succ k.isLt ((wireInv_iff_of_frame hseq).mp hs hdrv)
  rw [writeEvent_eq]
  rcases seqAfter_cases d k with ⟨hk, hnext⟩ | ⟨j, hj, hnext⟩
  · refine wireInv_of_idle hnext fun hdrv => ?_
    obtain ⟨hclock, hlatch, -⟩ := hafter hdrv
    rw [hk] at hclock hlatch
    exact ⟨by simpa [hk] using hclock, by simpa [hk] using hlatch⟩
  · refine (wireInv_iff_of_frame hnext).mpr fun hdrv => ?_
    rw [hj]
    exact hafter hdrv

theorem wireInv_op {i : Instr} {s t : State} (hready : s.Ready) (h : Executes i s t) (hs : WireInv s) : WireInv t := by
  obtain ⟨-, hidle⟩ := hready
  cases h with
  | initAcquires hdrv hanswers => exact wireInv_of_idle hidle fun _ => ⟨rfl, rfl⟩
  | initFails hdrv hfirst => exact wireInv_of_idle hidle fun hdrv => by cases hdrv
  | initAgain hdrv => exact wireInv_congr rfl rfl rfl hs
  | writeBegins hdrv =>
    obtain ⟨hclock, hlatch⟩ := levels_low_of_idle hs hidle hdrv
    exact (wireInv_iff_of_frame (d := _) (k := 0) rfl).mpr fun _ => ⟨hclock, hlatch, by simp⟩
  | writeInert hdrv => exact hs
  | writeUninit hdrv => exact wireInv_congr rfl rfl rfl hs
  | writeReleased hdrv => exact wireInv_congr rfl rfl rfl hs
  | teardownReleases hdrv => exact wireInv_of_idle hidle fun hdrv => by cases hdrv
  | teardownUnheld hdrv => exact wireInv_of_idle hidle fun hdrv => by cases hdrv
  | encodes => exact hs

/-- Settles O51: the levels before an event give the levels before the next, and an operation starts or ends with CLOCK
and LATCH low. -/
theorem stepKeepsWireInv : Obligations.StepKeepsWireInv := by
  intro s t hs h
  refine step_keeps (P := WireInv) ?frame ?op ?refuse ?host h hs
  case frame => exact fun _ _ _ _ hseq hs => wireInv_frame hseq hs
  case op => exact fun _ _ _ hready hex hs => wireInv_op hready hex hs
  case refuse => exact fun _ _ _ hs => wireInv_congr rfl rfl rfl hs
  case host =>
    exact fun _ _ _ _ _ hblock _ hs => wireInv_congr (by rw [hblock]) (by rw [hblock]) (by rw [hblock]) hs

/-! ### The part of the frame in the trace (41_serializer.md R98, R103) -/

theorem frameEvents_take_succ (p : Byte) {k : Nat} (hk : k < 44) :
    (frameEvents p).take (k + 1) = (frameEvents p).take k ++ [frameEvent p k] := by
  have hget : (frameEvents p)[k]? = some (frameEvent p k) := by
    rw [frameEvents, List.getElem?_map, List.getElem?_range hk, Option.map_some]
  rw [List.take_add_one, hget, Option.toList_some]

theorem frameInv_of_idle {s : State} (hseq : s.block.seq = .idle) : FrameInv s := by
  simp only [FrameInv, hseq]

theorem frameInv_iff_of_frame {s : State} {d : Digit} {k : Fin 44} (hseq : s.block.seq = .inWrite d k) :
    FrameInv s ↔ (frameEvents (memReadSeg d)).take k.val <:+ s.block.trace := by
  simp only [FrameInv, hseq]

theorem frameInv_frame {s : State} {d : Digit} {k : Fin 44} (hseq : s.block.seq = .inWrite d k) (hs : FrameInv s) :
    FrameInv (writeEvent d k s) := by
  obtain ⟨before, htrace⟩ := (frameInv_iff_of_frame hseq).mp hs
  rw [writeEvent_eq]
  rcases seqAfter_cases d k with ⟨-, hnext⟩ | ⟨j, hj, hnext⟩
  · exact frameInv_of_idle hnext
  · refine (frameInv_iff_of_frame hnext).mpr ⟨before, ?_⟩
    rw [hj, frameEvents_take_succ _ k.isLt, ← List.append_assoc, htrace]

theorem frameInv_op {i : Instr} {s t : State} (hready : s.Ready) (h : Executes i s t) : FrameInv t := by
  obtain ⟨-, hidle⟩ := hready
  cases h with
  | writeBegins hdrv => exact List.nil_suffix
  | initAcquires => exact frameInv_of_idle hidle
  | initFails => exact frameInv_of_idle hidle
  | initAgain => exact frameInv_of_idle hidle
  | writeInert => exact frameInv_of_idle hidle
  | writeUninit => exact frameInv_of_idle hidle
  | writeReleased => exact frameInv_of_idle hidle
  | teardownReleases => exact frameInv_of_idle hidle
  | teardownUnheld => exact frameInv_of_idle hidle
  | encodes => exact frameInv_of_idle hidle

/-- Settles O52: each event of a frame lengthens the part emitted by itself, and outside a frame nothing is claimed. -/
theorem stepKeepsFrameInv : Obligations.StepKeepsFrameInv := by
  intro s t hs h
  refine step_keeps (P := FrameInv) ?frame ?op ?refuse ?host h hs
  case frame => exact fun _ _ _ _ hseq hs => frameInv_frame hseq hs
  case op => exact fun _ _ _ hready hex _ => frameInv_op hready hex
  case refuse => exact fun _ _ hready _ => frameInv_of_idle hready.2
  case host => exact fun _ _ _ hready _ hblock _ _ => frameInv_of_idle (by rw [hblock]; exact hready.2)

/-! ### The trace read back (10_state.md R27, 60_exceptions.md R170, R171) -/

theorem legalFrom_append (v : LineView) (es fs : List Event) :
    legalFrom v (es ++ fs) = (legalFrom v es && legalFrom (es.foldl see v) fs) := by
  induction es generalizing v with
  | nil => simp [legalFrom]
  | cons e es ih => simp [legalFrom, ih, Bool.and_assoc]

/-- What the block and the observer say of the lines. -/
def viewNow (s : State) : LineView := { held := heldLines s.block.h, lv := s.block.lv, obs := s.obs }

/-- A state whose trace is another's with more events accounts for its lines as the other does, if the events added are
legal calls and make of the one's lines the other's. -/
theorem replayInv_append {s t : State} {es : List Event} (htrace : t.block.trace = s.block.trace ++ es)
    (hlegal : legalFrom (viewNow s) es = true) (hview : es.foldl see (viewNow s) = viewNow t) (hs : ReplayInv s) :
    ReplayInv t := by
  obtain ⟨hlegal₀, hview₀⟩ := hs
  have hnow : s.block.trace.foldl see .empty = viewNow s := hview₀
  refine ⟨?_, ?_⟩
  · rw [htrace, legalFrom_append, hlegal₀, hnow, hlegal, Bool.and_self]
  · rw [htrace, viewOf, List.foldl_append, hnow, hview, viewNow]

theorem replayInv_congr {s t : State} (htrace : t.block.trace = s.block.trace) (hnow : viewNow t = viewNow s)
    (hs : ReplayInv s) : ReplayInv t :=
  replayInv_append (es := []) (by rw [htrace, List.append_nil]) rfl hnow.symm hs

/-- The host's events call no line and leave the view as it is. -/
theorem see_hostEvent {e : Event} (h : IsHostEvent e) (v : LineView) : callLegal v e = true ∧ see v e = v := by
  rcases h with ⟨c, i, rfl⟩ | ⟨n, rfl⟩ <;> exact ⟨rfl, rfl⟩

theorem hostEvents_legal_and_unseen {es : List Event} (h : ∀ e ∈ es, IsHostEvent e) (v : LineView) :
    legalFrom v es = true ∧ es.foldl see v = v := by
  induction es with
  | nil => exact ⟨rfl, rfl⟩
  | cons e es ih =>
    obtain ⟨hlegal, hsee⟩ := see_hostEvent (h e List.mem_cons_self) v
    obtain ⟨hlegals, hsees⟩ := ih fun e he => h e (List.mem_cons_of_mem _ he)
    simp [legalFrom, hlegal, hlegals, hsee, hsees]

theorem heldLines_of_all_held {h : PerLine (Option Handle)} (hall : ∀ l, h.get l ≠ none) :
    heldLines h = PerLine.fill true := by
  have hd := Option.isSome_iff_ne_none.mpr (hall .data)
  have hc := Option.isSome_iff_ne_none.mpr (hall .clock)
  have hl := Option.isSome_iff_ne_none.mpr (hall .latch)
  simp only [PerLine.get] at hd hc hl
  rw [heldLines, hd, hc, hl, PerLine.fill]

/-- In ACTIVE every line is held. -/
theorem viewNow_of_active {s : State} (hl : LifecycleInv s) (hdrv : s.block.drv = .active) :
    viewNow s = { held := PerLine.fill true, lv := s.block.lv, obs := s.obs } := by
  rw [viewNow, heldLines_of_all_held fun l => (hl.1 hdrv l).1]

/-- Outside ACTIVE no line is held or driven. -/
theorem viewNow_of_not_active {s : State} (hl : LifecycleInv s) (hdrv : s.block.drv ≠ .active) :
    viewNow s = { held := PerLine.fill false, lv := PerLine.fill none, obs := s.obs } := by
  obtain ⟨⟨hh, hlv⟩, -⟩ := hl.2 hdrv
  rw [viewNow, hh, hlv]
  rfl

/-- With every line held an event of a frame is a legal call, and leaves the lines held. -/
theorem frameEvent_legal_of_held {v : LineView} (hheld : v.held = PerLine.fill true) (p : Byte) (k : Nat) :
    callLegal v (frameEvent p k) = true ∧ heldAfter v.held (frameEvent p k) = v.held := by
  rcases frameEvent_cases p k with he | ⟨l, b, he⟩
  · rw [he]
    exact ⟨rfl, rfl⟩
  · rw [he, callLegal, hheld, perLine_get_fill]
    exact ⟨rfl, rfl⟩

theorem replayInv_frame {s : State} {d : Digit} {k : Fin 44} (hseq : s.block.seq = .inWrite d k) (hl : LifecycleInv s)
    (hs : ReplayInv s) : ReplayInv (writeEvent d k s) := by
  have hview := viewNow_of_active hl (active_of_frame hl hseq)
  obtain ⟨hlegal, hheld⟩ := frameEvent_legal_of_held (v := viewNow s) (by rw [hview]) (memReadSeg d) k.val
  rw [writeEvent_eq]
  refine replayInv_append (s := s) rfl (by simp [legalFrom, hlegal]) ?_ hs
  rw [List.foldl_cons, List.foldl_nil, see, hheld]
  rfl

theorem replayInv_op {i : Instr} {s t : State} (h : Executes i s t) (hl : LifecycleInv s) (hs : ReplayInv s) :
    ReplayInv t := by
  cases h with
  | initAcquires hdrv hanswers =>
    have hview := viewNow_of_not_active hl (by simp [hdrv])
    exact replayInv_append rfl (by rw [hview]; rfl) (by rw [hview]; rfl) hs
  | @initFails _ l hdrv hfirst =>
    have hview := viewNow_of_not_active hl (by simp [hdrv])
    obtain ⟨⟨hh, hlv⟩, -⟩ := hl.2 (by simp [hdrv])
    refine replayInv_append rfl ?_ ?_ hs
    · rw [hview]
      cases l <;> rfl
    · rw [hview, viewNow, hh, hlv, releaseBefore_fill_none, releaseBefore_fill_none]
      cases l <;> rfl
  | initAgain hdrv => exact replayInv_congr rfl rfl hs
  | writeBegins hdrv => exact replayInv_congr rfl rfl hs
  | writeInert hdrv => exact hs
  | writeUninit hdrv => exact replayInv_congr rfl rfl hs
  | writeReleased hdrv => exact replayInv_congr rfl rfl hs
  | teardownReleases hdrv =>
    have hview := viewNow_of_active hl hdrv
    exact replayInv_append rfl (by rw [hview]; rfl) (by rw [hview]; rfl) hs
  | teardownUnheld hdrv => exact replayInv_congr rfl rfl hs
  | encodes => exact hs

theorem replayInv_host {s t : State} {es : List Event} (hes : ∀ e ∈ es, IsHostEvent e)
    (hblock : t.block = { s.block with trace := s.block.trace ++ es }) (hobs : t.obs = s.obs) (hs : ReplayInv s) :
    ReplayInv t := by
  obtain ⟨hlegal, hunseen⟩ := hostEvents_legal_and_unseen hes (viewNow s)
  refine replayInv_append (by rw [hblock]) hlegal ?_ hs
  rw [hunseen, viewNow, viewNow, hblock, hobs]

/-- Settles O53: the lifecycle invariant says which lines are held where an operation or a frame calls them. -/
theorem stepKeepsReplayInv : Obligations.StepKeepsReplayInv := by
  intro s t hl hs h
  refine (step_keeps (P := fun s => LifecycleInv s ∧ ReplayInv s) ?frame ?op ?refuse ?host h ⟨hl, hs⟩).2
  case frame => exact fun _ _ _ _ hseq ⟨hl, hs⟩ => ⟨lifecycleInv_frame hseq hl, replayInv_frame hseq hl hs⟩
  case op => exact fun _ _ _ hready hex ⟨hl, hs⟩ => ⟨lifecycleInv_op hready hex hl, replayInv_op hex hl hs⟩
  case refuse => exact fun _ _ _ ⟨hl, hs⟩ => ⟨lifecycleInv_congr rfl rfl rfl rfl hl, replayInv_congr rfl rfl hs⟩
  case host =>
    exact fun _ _ _ _ hes hblock hobs ⟨hl, hs⟩ => ⟨lifecycleInv_host hblock hl, replayInv_host hes hblock hobs hs⟩

end Sys2Proof.Proofs
end

section
/-! PROOFS. The rules of the whole machine: marks, observer, parameters, lifecycle and the host's part
(10_state.md R22 to R29, 45_host_command_path.md R130 to R142, 60_exceptions.md R163 to R171). -/

namespace Sys2Proof.Proofs

open Sys2Proof.Machine

/-! ### The marks (60_exceptions.md R163, R164) -/

theorem markInv_of_unmarked {s : State} (h : s.Unmarked) : MarkInv s := by
  obtain ⟨hfault, hrefused⟩ := h
  simp [MarkInv, hfault, hrefused]

/-- The lifecycle states in which a usage fault of a kind is raised (60_exceptions.md R163). -/
def KindFits : UsageKind → Lifecycle → Prop
  | .initAgain, drv => drv ≠ .uninit
  | .notInitialized, drv => drv = .uninit
  | .afterTeardown, drv => drv = .released

/-- A usage fault's mark is the only one, outside a frame, and its kind fits the lifecycle. -/
theorem markInv_raiseUsageFault {s : State} {kind : UsageKind} (hready : s.Ready) (hkind : KindFits kind s.block.drv) :
    MarkInv (raiseUsageFault kind s) := by
  obtain ⟨⟨-, hrefused⟩, hidle⟩ := hready
  cases kind <;> simp_all [MarkInv, KindFits]

theorem markInv_refuseIllegal {s : State} (w : Byte) (hready : s.Ready) : MarkInv (refuseIllegal w s) := by
  obtain ⟨⟨hfault, -⟩, hidle⟩ := hready
  simp [MarkInv, hfault, hidle]

theorem markInv_op {i : Instr} {s t : State} (hready : s.Ready) (h : Executes i s t) : MarkInv t := by
  have hunmarked := hready.1
  cases h with
  | initAgain hdrv => exact markInv_raiseUsageFault hready hdrv
  | writeUninit hdrv => exact markInv_raiseUsageFault hready hdrv
  | writeReleased hdrv => exact markInv_raiseUsageFault hready hdrv
  | initAcquires => exact markInv_of_unmarked hunmarked
  | initFails => exact markInv_of_unmarked hunmarked
  | writeBegins => exact markInv_of_unmarked hunmarked
  | writeInert => exact markInv_of_unmarked hunmarked
  | teardownReleases => exact markInv_of_unmarked hunmarked
  | teardownUnheld => exact markInv_of_unmarked hunmarked
  | encodes => exact markInv_of_unmarked hunmarked

/-- Settles O54: a step starts with no mark, and sets at most one. -/
theorem stepKeepsMarkInv : Obligations.StepKeepsMarkInv := by
  intro s t hs h
  refine step_keeps (P := MarkInv) ?frame ?op ?refuse ?host h hs
  case frame => exact fun _ _ _ hunmarked _ _ => markInv_of_unmarked (by rw [writeEvent_eq]; exact hunmarked)
  case op => exact fun _ _ _ hready hex _ => markInv_op hready hex
  case refuse => exact fun w _ hready _ => markInv_refuseIllegal w hready
  case host =>
    exact fun _ _ _ hready _ hblock _ _ => markInv_of_unmarked (by rw [State.Unmarked, hblock]; exact hready.1)

/-! ### The observer (60_exceptions.md R171) -/

theorem observe_changesOwnership {e : Event} (h : changesOwnership e = true) (lv : PerLine (Option Bool))
    (o : Observer) : observe lv e o = .allUnknown := by
  cases e with
  | acquire l r => rfl
  | setOutput l b => rfl
  | release l => rfl
  | set l b => cases h
  | delayShort => cases h
  | log c i => cases h
  | sleep n => cases h

theorem observe_clockRise {lv : PerLine (Option Bool)} (h : lv.clock = some false) (o : Observer) :
    observe lv (.set .clock true) o = shiftIn (sampleData lv) o :=
  if_pos h

theorem observe_latchRise {lv : PerLine (Option Bool)} (h : lv.latch = some false) (o : Observer) :
    observe lv (.set .latch true) o = latchOutputs o :=
  if_pos h

/-- Any other event leaves the observer as it is. -/
theorem observe_other {lv : PerLine (Option Bool)} {e : Event} (howner : changesOwnership e = false)
    (hclock : ¬(e = .set .clock true ∧ lv.clock = some false))
    (hlatch : ¬(e = .set .latch true ∧ lv.latch = some false)) (o : Observer) : observe lv e o = o := by
  cases e with
  | acquire l r => cases howner
  | setOutput l b => cases howner
  | release l => cases howner
  | delayShort => rfl
  | log c i => rfl
  | sleep n => rfl
  | set l b =>
    match l, b with
    | .data, _ | .clock, false | .latch, false => rfl
    | .clock, true => exact if_neg fun h => hclock ⟨rfl, h⟩
    | .latch, true => exact if_neg fun h => hlatch ⟨rfl, h⟩

/-- An event shifts the observer, loads its outputs, makes it unknown, or leaves it as it is. -/
theorem observe_cases (lv : PerLine (Option Bool)) (e : Event) (o : Observer) :
    (e = .set .clock true ∧ observe lv e o = shiftIn (sampleData lv) o) ∨
    (e = .set .latch true ∧ observe lv e o = latchOutputs o) ∨
    (changesOwnership e = true ∧ observe lv e o = .allUnknown) ∨ observe lv e o = o := by
  by_cases howner : changesOwnership e = true
  · exact .inr (.inr (.inl ⟨howner, observe_changesOwnership howner lv o⟩))
  by_cases hclock : e = .set .clock true ∧ lv.clock = some false
  · obtain ⟨rfl, hlow⟩ := hclock
    exact .inl ⟨rfl, observe_clockRise hlow o⟩
  by_cases hlatch : e = .set .latch true ∧ lv.latch = some false
  · obtain ⟨rfl, hlow⟩ := hlatch
    exact .inr (.inl ⟨rfl, observe_latchRise hlow o⟩)
  · exact .inr (.inr (.inr (observe_other (Bool.eq_false_iff.mpr howner) hclock hlatch o)))

theorem shiftIn_of_length {o : Observer} (h : o.sr.length = 8) (c : ObsCell) :
    shiftIn c o = { o with sr := c :: o.sr.dropLast } := by
  rw [shiftIn, List.take_succ_cons, List.dropLast_eq_take, h]

/-- Settles O28: one clause for each kind of event. -/
theorem observerFollowsTheEdges : Obligations.ObserverFollowsTheEdges := by
  intro lv o
  refine ⟨fun b hclock hdata hlength => ?_, fun h => observe_latchRise h o, fun e h => observe_changesOwnership h lv o,
    fun e howner hclock hlatch => observe_other howner hclock hlatch o⟩
  rw [observe_clockRise hclock, shiftIn_of_length hlength, sampleData, hdata]

/-- Both registers have eight cells. -/
def EightCells (o : Observer) : Prop := o.sr.length = 8 ∧ o.st.length = 8

theorem eightCells_observe {o : Observer} (h : EightCells o) (lv : PerLine (Option Bool)) (e : Event) :
    EightCells (observe lv e o) := by
  obtain ⟨hsr, hst⟩ := h
  rcases observe_cases lv e o with ⟨-, hobs⟩ | ⟨-, hobs⟩ | ⟨-, hobs⟩ | hobs <;> rw [hobs]
  · exact ⟨by simp [shiftIn, hsr], hst⟩
  · exact ⟨hsr, hsr⟩
  · exact ⟨rfl, rfl⟩
  · exact ⟨hsr, hst⟩

/-- An operation leaves the observer as it is, or one of the events it emits changes a line's ownership and the observer
knows nothing any more. -/
theorem executes_obs_cases {i : Instr} {s t : State} (h : Executes i s t) :
    t.obs = s.obs ∨ ∃ events, t.block.trace = s.block.trace ++ events ∧
      (∃ e ∈ events, changesOwnership e = true) ∧ t.obs = .allUnknown := by
  cases h with
  | initAcquires hdrv hanswers => exact .inr ⟨_, rfl, ⟨_, List.mem_cons_self, rfl⟩, rfl⟩
  | @initFails _ l hdrv hfirst =>
    refine .inr ⟨_, rfl, ?_, rfl⟩
    cases l <;> exact ⟨_, List.mem_cons_self, rfl⟩
  | teardownReleases hdrv => exact .inr ⟨_, rfl, ⟨_, List.mem_cons_self, rfl⟩, rfl⟩
  | initAgain => exact .inl rfl
  | writeBegins => exact .inl rfl
  | writeInert => exact .inl rfl
  | writeUninit => exact .inl rfl
  | writeReleased => exact .inl rfl
  | teardownUnheld => exact .inl rfl
  | encodes => exact .inl rfl

theorem eightCells_op {i : Instr} {s t : State} (h : Executes i s t) (hs : EightCells s.obs) : EightCells t.obs := by
  rcases executes_obs_cases h with hobs | ⟨_, -, -, hobs⟩ <;> rw [hobs]
  · exact hs
  · exact ⟨rfl, rfl⟩

/-- Settles O56: one event keeps the eight cells, and an operation leaves the observer as it is or makes it unknown. -/
theorem stepKeepsObserverInv : Obligations.StepKeepsObserverInv := by
  intro s t hs h
  refine step_keeps (P := fun s => EightCells s.obs) ?frame ?op ?refuse ?host h hs
  case frame => exact fun s d k _ _ hs => by rw [writeEvent_eq]; exact eightCells_observe hs _ _
  case op => exact fun _ _ _ _ hex hs => eightCells_op hex hs
  case refuse => exact fun _ _ _ hs => hs
  case host => exact fun _ _ _ _ _ _ hobs hs => hobs ▸ hs

/-! ### The parallel outputs (70_reset_and_hazards.md R192) -/

/-- The one event of a frame that raises LATCH is event 41. -/
theorem eq_41_of_latchRise {p : Byte} {k : Nat} (h : frameEvent p k = .set .latch true) : k = 41 := by
  unfold frameEvent at h
  split_ifs at h <;> simp_all

/-- No event of a frame changes a line's ownership. -/
theorem frameEvent_keeps_ownership (p : Byte) (k : Nat) : changesOwnership (frameEvent p k) = false := by
  rcases frameEvent_cases p k with h | ⟨l, b, h⟩ <;> rw [h] <;> rfl

/-- An event of a frame changes the outputs only where LATCH rises. -/
theorem frameEvent_outputs {lv : PerLine (Option Bool)} {p : Byte} {k : Nat} {o : Observer}
    (h : (observe lv (frameEvent p k) o).st ≠ o.st) : k = 41 ∧ (observe lv (frameEvent p k) o).st = o.sr := by
  rcases observe_cases lv (frameEvent p k) o with ⟨-, hobs⟩ | ⟨he, hobs⟩ | ⟨howner, -⟩ | hobs
  · exact absurd (by rw [hobs, shiftIn]) h
  · exact ⟨eq_41_of_latchRise he, by rw [hobs, latchOutputs]⟩
  · rw [frameEvent_keeps_ownership] at howner
    cases howner
  · exact absurd (by rw [hobs]) h

/-- Settles O29: outside a frame the outputs change only with a line's ownership, in a frame only at event 41. -/
theorem outputsChangeOnlyAtTheLatch : Obligations.OutputsChangeOnlyAtTheLatch := by
  intro s t h hne
  obtain ⟨-, ⟨d, k, hseq, rfl⟩ | ⟨-, i, u, -, ⟨-, -, hblock, hobs⟩, hexec⟩ | ⟨-, w, u, ⟨-, -, -, hobs⟩, rfl⟩ |
    ⟨-, es, -, -, -, -, hobs⟩⟩ := step_block_cases h
  · rw [writeEvent_eq] at hne ⊢
    obtain ⟨hk, hst⟩ := frameEvent_outputs hne
    exact .inl ⟨d, k, hseq, hk, hst⟩
  · rcases executes_obs_cases (exec_next_cases hexec).2 with hsame | ⟨events, htrace, howner, hunknown⟩
    · exact absurd (by rw [hsame, hobs]) hne
    · exact .inr ⟨events, by rw [htrace, hblock], howner, hunknown⟩
  · exact absurd (by rw [refuseIllegal_obs, hobs]) hne
  · exact absurd (by rw [hobs]) hne

/-! ### Parameters and lifecycle (00_scope.md R10, 10_state.md R22) -/

theorem executes_parameters {i : Instr} {s t : State} (h : Executes i s t) :
    t.cfg = s.cfg ∧ t.answers = s.answers := by
  cases h <;> exact ⟨rfl, rfl⟩

/-- Settles O59: in each of the four ways of a step. -/
theorem parametersNeverChange : Obligations.ParametersNeverChange := by
  intro s t h
  obtain ⟨-, ⟨d, k, -, rfl⟩ | ⟨-, i, u, -, ⟨hcfg, hanswers, -, -⟩, hexec⟩ | ⟨-, w, u, ⟨hcfg, hanswers, -, -⟩, rfl⟩ |
    ⟨-, es, -, hcfg, hanswers, -, -⟩⟩ := step_block_cases h
  · rw [writeEvent_eq]
    exact ⟨rfl, rfl⟩
  · obtain ⟨hcfg', hanswers'⟩ := executes_parameters (exec_next_cases hexec).2
    exact ⟨hcfg'.trans hcfg, hanswers'.trans hanswers⟩
  · exact ⟨hcfg, hanswers⟩
  · exact ⟨hcfg, hanswers⟩

/-- Only INIT in UNINIT and TEARDOWN move the lifecycle. -/
theorem executes_drv_cases {i : Instr} {s t : State} (h : Executes i s t) :
    t.block.drv = s.block.drv ∨ (i = .teardown ∧ t.block.drv = .released) ∨
    (i = .init ∧ s.block.drv = .uninit ∧ (t.block.drv = .active ∨ t.block.drv = .inert)) := by
  cases h with
  | initAcquires hdrv hanswers => exact .inr (.inr ⟨rfl, hdrv, .inl rfl⟩)
  | initFails hdrv hfirst => exact .inr (.inr ⟨rfl, hdrv, .inr rfl⟩)
  | teardownReleases hdrv => exact .inr (.inl ⟨rfl, rfl⟩)
  | teardownUnheld hdrv => exact .inr (.inl ⟨rfl, rfl⟩)
  | initAgain => exact .inl rfl
  | writeBegins => exact .inl rfl
  | writeInert => exact .inl rfl
  | writeUninit => exact .inl rfl
  | writeReleased => exact .inl rfl
  | encodes => exact .inl rfl

/-- Settles O58: of the ways of a step only an operation can move the lifecycle. -/
theorem lifecycleNeverGoesBack : Obligations.LifecycleNeverGoesBack := by
  intro s t h hmove
  obtain ⟨hunmarked, ⟨d, k, -, rfl⟩ | ⟨hidle, i, u, hnext, ⟨-, -, hblock, -⟩, hexec⟩ |
    ⟨-, w, u, ⟨-, -, hblock, -⟩, rfl⟩ | ⟨-, es, -, -, -, hblock, -⟩⟩ := step_block_cases h
  · rw [writeEvent_eq] at hmove
    exact absurd rfl hmove
  · rcases executes_drv_cases (exec_next_cases hexec).2 with hsame | ⟨rfl, hdrv⟩ | ⟨rfl, huninit, hdrv⟩
    · exact absurd (by rw [hsame, hblock]) hmove
    · exact ⟨⟨hunmarked, hidle⟩, .inl ⟨hnext, hdrv⟩⟩
    · exact ⟨⟨hunmarked, hidle⟩, .inr ⟨hnext, hblock ▸ huninit, hdrv⟩⟩
  · exact absurd (by rw [refuseIllegal_drv, hblock]) hmove
  · exact absurd (by rw [hblock]) hmove

/-! ### The trace and the replies (10_state.md R27) -/

/-- An operation only appends to the trace, and to the host's replies; it touches nothing else of the host. -/
theorem executes_appends {i : Instr} {s t : State} (h : Executes i s t) :
    (∃ events, t.block.trace = s.block.trace ++ events) ∧
    ∃ replies, t.host = { s.host with replies := s.host.replies ++ replies } := by
  have unchanged : ∃ replies, s.host = { s.host with replies := s.host.replies ++ replies } :=
    ⟨[], by rw [List.append_nil]⟩
  cases h with
  | initAcquires => exact ⟨⟨_, rfl⟩, unchanged⟩
  | initFails => exact ⟨⟨_, rfl⟩, unchanged⟩
  | teardownReleases => exact ⟨⟨_, rfl⟩, unchanged⟩
  | initAgain => exact ⟨⟨[], by simp⟩, unchanged⟩
  | writeBegins => exact ⟨⟨[], by simp⟩, unchanged⟩
  | writeInert => exact ⟨⟨[], by simp⟩, unchanged⟩
  | writeUninit => exact ⟨⟨[], by simp⟩, unchanged⟩
  | writeReleased => exact ⟨⟨[], by simp⟩, unchanged⟩
  | teardownUnheld => exact ⟨⟨[], by simp⟩, unchanged⟩
  | encodes => exact ⟨⟨[], by simp⟩, ⟨_, rfl⟩⟩

theorem step_trace_grows {s t : State} (h : step s = .next t) : s.block.trace <+: t.block.trace := by
  obtain ⟨-, ⟨d, k, -, rfl⟩ | ⟨-, i, u, -, ⟨-, -, hblock, -⟩, hexec⟩ | ⟨-, w, u, ⟨-, -, hblock, -⟩, rfl⟩ |
    ⟨-, es, -, -, -, hblock, -⟩⟩ := step_block_cases h
  · rw [writeEvent_eq]
    exact List.prefix_append _ _
  · obtain ⟨⟨events, htrace⟩, -⟩ := executes_appends (exec_next_cases hexec).2
    rw [htrace, hblock]
    exact List.prefix_append _ _
  · rw [refuseIllegal_trace, hblock]
  · rw [hblock]
    exact List.prefix_append _ _

/-- A word issued to the block leaves the host as it is but for a reply. -/
theorem issueWord_host {w : Byte} {s t : State} (h : issueWord w s = .next t) :
    ∃ replies, t.host = { s.host with replies := s.host.replies ++ replies } := by
  rcases issueWord_next_cases h with ⟨i, -, hexec⟩ | ⟨r, -, rfl⟩
  · exact (executes_appends (exec_next_cases hexec).2).2
  · exact ⟨[], by rw [List.append_nil]; rfl⟩

/-- So does every action of the controller. -/
theorem runAction_host {a : HostAction} {s t : State} (h : runAction a s = .next t) :
    ∃ replies, t.host = { s.host with replies := s.host.replies ++ replies } := by
  cases a with
  | issue w => exact issueWord_host h
  | sleep =>
    cases h
    exact ⟨[], by rw [List.append_nil]; rfl⟩
  | log c i =>
    cases h
    exact ⟨[], by rw [List.append_nil]; rfl⟩

theorem emitAll_host (es : List Event) (s : State) : (emitAll es s).host = s.host := by
  induction es generalizing s with
  | nil => rfl
  | cons e es ih => rw [emitAll, ih, emit_host]

theorem emitAll_cfg (es : List Event) (s : State) : (emitAll es s).cfg = s.cfg := by
  induction es generalizing s with
  | nil => rfl
  | cons e es ih => rw [emitAll, ih, emit_cfg]

theorem acceptEffect_replies (offset : Nat) (payload : List Byte) (copyFails : Bool) (s : State) :
    s.host.replies <+: (acceptEffect offset payload copyFails s).host.replies := by
  simp only [acceptEffect]
  split_ifs
  · exact List.prefix_append _ _
  · exact List.prefix_append _ _
  · simp [beginExecution, emitAll_host]

theorem retrieveEffect_replies (offset maxLen : Nat) (copyFails : Bool) (s : State) :
    s.host.replies <+: (retrieveEffect offset maxLen copyFails s).host.replies := by
  simp only [retrieveEffect]
  split_ifs <;> exact List.prefix_append _ _

theorem step_replies_grow {s t : State} (h : step s = .next t) : s.host.replies <+: t.host.replies := by
  obtain ⟨-, ⟨d, k, -, rfl⟩ | ⟨-, hhost⟩⟩ := step_next_cases h
  · rw [writeEvent_eq]
  rcases hostStep_next_cases hhost with ⟨a, rest, r, -, haction⟩ | ⟨r, -, rfl⟩ | ⟨-, -, rfl⟩ | ⟨w, rest, -, -, hword⟩ |
    ⟨o, p, c, rest, -, -, rfl⟩ | ⟨o, n, c, rest, -, -, rfl⟩
  · obtain ⟨replies, hhost'⟩ := runAction_host haction
    rw [hhost']
    exact List.prefix_append _ _
  · exact List.prefix_append _ _
  · exact List.prefix_refl _
  · obtain ⟨replies, hhost'⟩ := issueWord_host hword
    rw [hhost']
    exact List.prefix_append _ _
  · exact acceptEffect_replies o p c (setRequests rest s)
  · exact retrieveEffect_replies o n c (setRequests rest s)

/-- Settles O57: the block appends to the trace and the host to the replies. -/
theorem traceOnlyGrows : Obligations.TraceOnlyGrows :=
  fun _ _ h => ⟨step_trace_grows h, step_replies_grow h⟩

/-! ### The channel and the words an accept issues (45_host_command_path.md R130, R136, R142) -/

theorem channelInv_congr {s t : State} (hcfg : t.cfg = s.cfg) (hbuf : t.host.buf = s.host.buf)
    (hcursor : t.host.cursor = s.host.cursor) (hs : ChannelInv s) : ChannelInv t := by
  simpa only [ChannelInv, hcfg, hbuf, hcursor] using hs

theorem callInv_congr {s t : State} (hcall : t.host.call = s.host.call) (hs : CallInv s) : CallInv t := by
  simpa only [CallInv, hcall] using hs

theorem callInv_of_idle {s : State} (hcall : s.host.call = .idle) : CallInv s := by
  simp only [CallInv, hcall]

theorem callInv_iff_of_running {s : State} {todo : List HostAction} {r : Reply}
    (hcall : s.host.call = .running todo r) :
    CallInv s ↔ ∀ w, HostAction.issue w ∈ todo → ∃ d, decode w = .ok (.writeDigit d) := by
  simp only [CallInv, hcall]

theorem decode_of_issueDigit {v : Nat} {w : Byte} (h : HostAction.issue w = issueDigit v) :
    ∃ d, decode w = .ok (.writeDigit d) := by
  cases h
  exact ⟨_, decode_encode _⟩

theorem issues_countDownActions {w : Byte} (v : Nat) (h : HostAction.issue w ∈ countDownActions v) :
    ∃ d, decode w = .ok (.writeDigit d) := by
  induction v with
  | zero => exact decode_of_issueDigit (List.mem_singleton.mp h)
  | succ v ih =>
    simp only [countDownActions, List.mem_cons, reduceCtorEq, false_or] at h
    exact h.elim decode_of_issueDigit ih

theorem issues_countUpActions {w : Byte} (n v : Nat) (h : HostAction.issue w ∈ countUpActions n v) :
    ∃ d, decode w = .ok (.writeDigit d) := by
  induction n generalizing v with
  | zero => exact decode_of_issueDigit (List.mem_singleton.mp h)
  | succ n ih =>
    simp only [countUpActions, List.mem_cons, reduceCtorEq, false_or] at h
    exact h.elim decode_of_issueDigit (ih (v + 1))

/-- A range diagnostic issues no word. -/
theorem issue_not_mem_rangeError (w : Byte) (v : Nat) : HostAction.issue w ∉ rangeError v := by
  simp [rangeError]

/-- Every word of an expansion is a WRITE_DIGIT word. -/
theorem issues_expand {w : Byte} (c : Command) (h : HostAction.issue w ∈ expand c) :
    ∃ d, decode w = .ok (.writeDigit d) := by
  cases c with
  | noOption => simp [expand] at h
  | display v =>
    rw [expand] at h
    split_ifs at h
    · exact decode_of_issueDigit (List.mem_singleton.mp h)
    · exact absurd h (issue_not_mem_rangeError w v)
  | countDown v =>
    rw [expand] at h
    split_ifs at h
    · exact issues_countDownActions v h
    · exact absurd h (issue_not_mem_rangeError w v)
  | countUp v =>
    rw [expand] at h
    split_ifs at h
    · exact issues_countUpActions _ v h
    · exact absurd h (issue_not_mem_rangeError w v)

/-- The two invariants of the host's part. -/
def HostInvs (s : State) : Prop := ChannelInv s ∧ CallInv s

theorem copyIn_wf (offset : Nat) (payload : List Byte) (n : Nat) : Memory.wf (copyIn offset payload n) :=
  memory_writeBytes_wf _ _ _ memory_cleared_wf

/-- A copy of the clamped length stays within the capacity. -/
theorem copyIn_addr_lt {cap offset : Nat} (payload : List Byte) (h : offset < cap) :
    ∀ c ∈ copyIn offset payload (clampLen cap offset payload.length), c.1 < cap := by
  intro c hc
  rcases memory_writeBytes_addr _ _ _ c hc with ⟨-, hlt⟩ | hcleared
  · rw [List.length_take, clampLen] at hlt
    omega
  · simp [Memory.cleared] at hcleared

theorem hostInvs_acceptEffect (offset : Nat) (payload : List Byte) (copyFails : Bool) {s : State} (hs : HostInvs s) :
    HostInvs (acceptEffect offset payload copyFails s) := by
  obtain ⟨hchannel, hcall⟩ := hs
  simp only [acceptEffect]
  split_ifs with hcap hfault
  · exact ⟨channelInv_congr rfl rfl rfl hchannel, callInv_congr rfl hcall⟩
  · exact ⟨⟨memory_anyBytes_wf _ _, memory_anyBytes_addr _ _, hchannel.2.2⟩, callInv_congr rfl hcall⟩
  · have hlt : offset < s.cfg.cap := Nat.lt_of_not_le hcap
    refine ⟨?_, (callInv_iff_of_running rfl).mpr fun w => issues_expand _⟩
    simp only [beginExecution, ChannelInv, setCall_cfg, setCall_buf, setCall_cursor, setOutcome_cfg, setOutcome_buf,
      setOutcome_cursor, emitAll_cfg, emitAll_host, setChannel_cfg, setChannel_buf, setChannel_cursor]
    refine ⟨copyIn_wf _ _ _, copyIn_addr_lt payload hlt, ?_⟩
    rw [clampLen]
    omega

theorem hostInvs_retrieveEffect (offset maxLen : Nat) (copyFails : Bool) {s : State} (hs : HostInvs s) :
    HostInvs (retrieveEffect offset maxLen copyFails s) := by
  obtain ⟨hchannel, hcall⟩ := hs
  simp only [retrieveEffect]
  split_ifs with hcap
  · exact ⟨channelInv_congr rfl rfl rfl hchannel, callInv_congr rfl hcall⟩
  · exact ⟨channelInv_congr rfl rfl rfl hchannel, callInv_congr rfl hcall⟩
  · obtain ⟨hwf, haddr, -⟩ := hchannel
    refine ⟨⟨hwf, haddr, ?_⟩, callInv_congr rfl hcall⟩
    simp only [reply_cursor, setChannel_cursor, reply_cfg, setChannel_cfg, clampLen]
    omega

/-- A change of the host that only appends replies keeps both. -/
theorem hostInvs_of_replies {s t : State} {replies : List Reply} (hcfg : t.cfg = s.cfg)
    (hhost : t.host = { s.host with replies := s.host.replies ++ replies }) (hs : HostInvs s) : HostInvs t := by
  obtain ⟨hchannel, hcall⟩ := hs
  exact ⟨channelInv_congr hcfg (by rw [hhost]) (by rw [hhost]) hchannel, callInv_congr (by rw [hhost]) hcall⟩

/-- An accept that has run an action has fewer words to issue. -/
theorem hostInvs_next_action {s : State} {a : HostAction} {rest : List HostAction} {r : Reply}
    (hcall : s.host.call = .running (a :: rest) r) (hs : HostInvs s) : HostInvs (setCall (.running rest r) s) := by
  obtain ⟨hchannel, hwords⟩ := hs
  refine ⟨channelInv_congr rfl rfl rfl hchannel, (callInv_iff_of_running rfl).mpr fun w hw => ?_⟩
  exact (callInv_iff_of_running hcall).mp hwords w (List.mem_cons_of_mem _ hw)

/-- Settles O55: accept and retrieve keep the bounds, an expansion holds WRITE_DIGIT words only, and the rest of a step
touches neither the channel nor the words. -/
theorem stepKeepsHostInvs : Obligations.StepKeepsHostInvs := by
  intro s t hchannel hcallInv h
  have hs : HostInvs s := ⟨hchannel, hcallInv⟩
  obtain ⟨hcfg, -⟩ := parametersNeverChange s t h
  obtain ⟨-, ⟨d, k, -, rfl⟩ | ⟨-, hhost⟩⟩ := step_next_cases h
  · rw [writeEvent_eq]
    exact hs
  rcases hostStep_next_cases hhost with ⟨a, rest, r, hcall, haction⟩ | ⟨r, -, rfl⟩ | ⟨-, -, rfl⟩ |
    ⟨w, rest, -, -, hword⟩ | ⟨o, p, c, rest, -, -, rfl⟩ | ⟨o, n, c, rest, -, -, rfl⟩
  · obtain ⟨replies, hhost'⟩ := runAction_host haction
    exact hostInvs_of_replies (s := setCall (.running rest r) s) hcfg hhost' (hostInvs_next_action hcall hs)
  · exact ⟨channelInv_congr rfl rfl rfl hchannel, callInv_of_idle rfl⟩
  · exact hs
  · obtain ⟨replies, hhost'⟩ := issueWord_host hword
    exact hostInvs_of_replies (s := setRequests rest s) hcfg hhost' hs
  · exact hostInvs_acceptEffect (s := setRequests rest s) o p c hs
  · exact hostInvs_retrieveEffect (s := setRequests rest s) o n c hs

/-! ### Reset (10_state.md R32, 70_reset_and_hazards.md R180) -/

/-- Settles O48: each clause is a field of the reset state. -/
theorem resetStateAsTheSpecGivesIt : Obligations.ResetStateAsTheSpecGivesIt :=
  ⟨rfl, ⟨rfl, rfl⟩, rfl, ⟨⟨rfl, rfl⟩, rfl⟩, fun _ => rfl, rfl, rfl, rfl⟩

/-- Settles O49: at reset no line is held, nothing is marked or in progress, and the trace and the channel are empty. -/
theorem invariantsHoldAtReset : Obligations.InvariantsHoldAtReset := by
  intro cfg answers
  refine ⟨lifecycleInv_of_noLine (by simp [State.resetWith, Block.reset]) ⟨rfl, rfl⟩ rfl, ?wire, frameInv_of_idle rfl,
    ⟨rfl, rfl⟩, markInv_of_unmarked ⟨rfl, rfl⟩, ⟨memory_wf_nil, ?addr, Nat.zero_le _⟩, callInv_of_idle rfl, ⟨rfl, rfl⟩⟩
  case wire => exact wireInv_of_idle rfl fun hdrv => by cases hdrv
  case addr => exact fun c hc => absurd hc List.not_mem_nil

end Sys2Proof.Proofs
end

section
/-! PROOFS. A whole frame: its cells, what it leaves on the wires and in the observer, and its run of 44 steps
(41_serializer.md R95 to R102, 60_exceptions.md R171, R172). -/

namespace Sys2Proof.Proofs

open Sys2Proof.Machine

/-! ### The cells of a frame (41_serializer.md R96) -/

theorem frameEvents_cell (p : Byte) {i : Nat} (hi : i < 8) : ((frameEvents p).drop (5 * i)).take 5 = bitCell p i := by
  refine List.ext_getElem? fun j => ?_
  rw [List.getElem?_take]
  split_ifs with hj
  · rw [List.getElem?_drop, frameEvents_getElem?_cell p hi hj]
  · rw [List.getElem?_eq_none (Nat.le_of_not_lt hj)]

/-- Settles O24: the five events from position 5i on are the cell of bit i, and the next position is the first of the
next cell. -/
theorem bitCellHoldsItsFiveEvents : Obligations.BitCellHoldsItsFiveEvents := by
  intro p i hi
  refine ⟨frameEvents_cell p hi, fun hlast => ?_⟩
  have hnext := frameEvents_getElem?_cell p (i := i + 1) (j := 0) (by omega) (by decide)
  rw [show 5 * i + 5 = 5 * (i + 1) + 0 by omega, hnext, ← patternBit_eq_getLsbD]
  rfl

/-- Whatever was driven before, a frame leaves DATA at its last bit and CLOCK and LATCH low (41_serializer.md R101). -/
theorem frameEvents_levels (p : Byte) (lv : PerLine (Option Bool)) :
    (frameEvents p).foldl levelsAfter lv = ⟨some (patternBit p 7), some false, some false⟩ := rfl

/-- Settles O25: the closed form of the frame is the loop, whose last DATA write is bit 7's. -/
theorem frameIsEightCellsAndALatchPulse : Obligations.FrameIsEightCellsAndALatchPulse := by
  intro p
  have hcell : bitCell p = fun i =>
      [.set .data (p.getLsbD i), .delayShort, .set .clock true, .delayShort, .set .clock false] :=
    funext fun i => by rw [bitCell, patternBit_eq_getLsbD]
  refine ⟨frameEvents_eq_frameLoop p, ?_, fun lv => ?_⟩
  · rw [frameLoop, hcell, latchPulse, Config.nBits]
  · rw [frameEvents_levels, ← patternBit_eq_getLsbD]

/-! ### What a frame makes of the lines and the observer (60_exceptions.md R171, R172) -/

/-- With CLOCK low, a cell drives its bit on DATA, shifts it into the observer and leaves CLOCK low. -/
theorem bitCell_view (p : Byte) (i : Nat) {v : LineView} (hclock : v.lv.clock = some false) :
    (bitCell p i).foldl see v =
      { held := v.held
        lv := ⟨some (patternBit p i), some false, v.lv.latch⟩
        obs := shiftIn (.known (patternBit p i)) v.obs } := by
  simp [bitCell, see, heldAfter, levelsAfter, PerLine.set, observe, sampleData, hclock]

/-- With LATCH low, the latch pulse loads the observer's outputs and leaves LATCH low. -/
theorem latchPulse_view {v : LineView} (hlatch : v.lv.latch = some false) :
    latchPulse.foldl see v =
      { held := v.held, lv := { v.lv with latch := some false }, obs := latchOutputs v.obs } := by
  simp [latchPulse, see, heldAfter, levelsAfter, PerLine.set, observe, hlatch]

/-- Eight bits shifted in, bit 0 first, push out whatever the shift stage held. -/
theorem shiftIn_eight (p : Byte) (o : Observer) :
    (List.range 8).foldl (fun o i => shiftIn (.known (patternBit p i)) o) o = { o with sr := outputsOf p } := rfl

/-- With CLOCK low, the first `n + 1` cells shift in their bits, one after the other. -/
theorem bitCells_view (p : Byte) (n : Nat) {v : LineView} (hclock : v.lv.clock = some false) :
    ((List.range (n + 1)).flatMap (bitCell p)).foldl see v =
      { held := v.held
        lv := ⟨some (patternBit p n), some false, v.lv.latch⟩
        obs := (List.range (n + 1)).foldl (fun o i => shiftIn (.known (patternBit p i)) o) v.obs } := by
  induction n with
  | zero => simpa using bitCell_view p 0 hclock
  | succ n ih =>
    rw [List.range_succ, List.flatMap_append, List.foldl_append, ih, List.flatMap_singleton, bitCell_view p (n + 1) rfl,
      List.foldl_append]
    rfl

/-- With CLOCK and LATCH low, a frame makes the observer's outputs spell its pattern, whatever they were. -/
theorem frameEvents_view (p : Byte) {v : LineView} (hclock : v.lv.clock = some false)
    (hlatch : v.lv.latch = some false) :
    (frameEvents p).foldl see v =
      { held := v.held
        lv := ⟨some (patternBit p 7), some false, some false⟩
        obs := { sr := outputsOf p, st := outputsOf p } } := by
  rw [frameEvents_eq_cells_append_latchPulse, List.foldl_append, frameCells, Config.nBits, bitCells_view p 7 hclock,
    shiftIn_eight]
  exact latchPulse_view hlatch

/-! ### The run of a frame (10_state.md R28, 41_serializer.md R98) -/

/-- `s` after the events `es` have been emitted, at position `q`. -/
def afterEvents (es : List Event) (q : Seq) (s : State) : State :=
  { s with
    block := { s.block with
      trace := s.block.trace ++ es
      lv := (es.foldl see (viewNow s)).lv
      seq := q }
    obs := (es.foldl see (viewNow s)).obs }

/-- The position after `n` events of the frame of digit `d`. -/
def framePosition (d : Digit) (n : Nat) : Seq := if h : n < 44 then .inWrite d ⟨n, h⟩ else .idle

theorem step_afterEvents {s : State} {d : Digit} {n : Nat} (hunmarked : s.Unmarked) (hn : n < 44) :
    step (afterEvents ((frameEvents (memReadSeg d)).take n) (framePosition d n) s) =
      .next (afterEvents ((frameEvents (memReadSeg d)).take (n + 1)) (framePosition d (n + 1)) s) := by
  have hseq : framePosition d n = .inWrite d ⟨n, hn⟩ := dif_pos hn
  have hstep := step_of_frame (s := afterEvents ((frameEvents (memReadSeg d)).take n) (framePosition d n) s)
    hunmarked hseq
  rw [hstep, writeEvent_eq, frameEvents_take_succ _ hn]
  simp only [afterEvents, List.foldl_append, List.foldl_cons, List.foldl_nil, see, List.append_assoc]
  rfl

theorem run_afterEvents {s : State} (d : Digit) {n : Nat} (hunmarked : s.Unmarked) (hn : n ≤ 44) :
    run n (afterEvents [] (framePosition d 0) s) =
      .next (afterEvents ((frameEvents (memReadSeg d)).take n) (framePosition d n) s) := by
  induction n with
  | zero => rw [run_zero, List.take_zero]
  | succ n ih =>
    rw [run_add 1 (ih (Nat.le_of_succ_le hn)), run_succ_of_step 0 (step_afterEvents hunmarked hn), run_zero]

/-- `s` with the digit `d` shown: its frame in the trace, and its pattern on the observer's outputs. -/
def showDigit (d : Digit) (s : State) : State :=
  { s with
    block := { s.block with
      trace := s.block.trace ++ frameEvents (memReadSeg d)
      lv := ⟨some (patternBit (memReadSeg d) 7), some false, some false⟩ }
    obs := { sr := outputsOf (memReadSeg d), st := outputsOf (memReadSeg d) } }

theorem afterEvents_frame {s : State} (d : Digit) (hidle : s.block.seq = .idle) (hclock : s.block.lv.clock = some false)
    (hlatch : s.block.lv.latch = some false) :
    afterEvents (frameEvents (memReadSeg d)) .idle s = showDigit d s := by
  have hview := frameEvents_view (memReadSeg d) (v := viewNow s) hclock hlatch
  rw [afterEvents, hview, ← hidle, showDigit]

/-- A frame begun with CLOCK and LATCH low takes 44 steps and shows its digit. -/
theorem run_frame {s : State} (d : Digit) (hready : s.Ready) (hclock : s.block.lv.clock = some false)
    (hlatch : s.block.lv.latch = some false) : run 44 (setSeq (.inWrite d 0) s) = .next (showDigit d s) := by
  have hbegin : setSeq (.inWrite d 0) s = afterEvents [] (framePosition d 0) s := by
    rw [setSeq, afterEvents, List.append_nil]
    rfl
  have hwhole : (frameEvents (memReadSeg d)).take 44 = frameEvents (memReadSeg d) := rfl
  have hend : framePosition d 44 = .idle := rfl
  rw [hbegin, run_afterEvents d hready.1 (Nat.le_refl 44), hwhole, hend, afterEvents_frame d hready.2 hclock hlatch]

/-- Settles O15: in ACTIVE the operation begins its frame, and the frame runs to its end. -/
theorem writeDigitCompletesItsFrame : Obligations.WriteDigitCompletesItsFrame := by
  intro s d hready hdrv hclock hlatch
  refine ⟨setSeq (.inWrite d 0) s, ?_, by rw [setSeq], run_frame d hready hclock hlatch⟩
  rw [exec_writeDigit_of_ready d hready, writeDigitEffect_of_active d hdrv]

end Sys2Proof.Proofs
end

section
/-! PROOFS. The channel: its bytes, accept and retrieve (45_host_command_path.md R136 to R142). -/

namespace Sys2Proof.Proofs

open Sys2Proof.Machine

/-! ### Reading what was written -/

theorem read_cons (a : Nat) (b : Byte) (m : Memory) (x : Nat) :
    Memory.read ((a, b) :: m) x = if a = x then b else Memory.read m x := rfl

/-- An address that no entry lists reads as the unlisted byte. -/
theorem read_of_not_listed {m : Memory} {x : Nat} (h : ∀ c ∈ m, c.1 ≠ x) : Memory.read m x = Memory.unlisted := by
  induction m with
  | nil => rfl
  | cons c m ih =>
    rw [read_cons, if_neg (h c List.mem_cons_self), ih fun d hd => h d (List.mem_cons_of_mem _ hd)]

theorem read_write {m : Memory} (hwf : Memory.wf m) (x : Nat) (v : Byte) (y : Nat) :
    Memory.read (Memory.write m x v) y = if y = x then v else Memory.read m y := by
  induction m with
  | nil =>
    rw [Memory.write]
    split_ifs with hv hy hy
    case pos => exact hv.symm
    case neg => rfl
    case pos => rw [read_cons, if_pos hy.symm]
    case neg => rw [read_cons, if_neg (Ne.symm hy)]
  | cons c m ih =>
    obtain ⟨a, b⟩ := c
    obtain ⟨hlt, -, hm⟩ := memory_wf_cons.mp hwf
    rw [Memory.write]
    by_cases hxa : x < a
    · have hx : Memory.read ((a, b) :: m) x = Memory.unlisted := read_of_not_listed fun c hc => by
        rcases List.mem_cons.mp hc with rfl | hc
        · exact hxa.ne'
        · exact (hxa.trans (hlt c hc)).ne'
      rw [if_pos hxa]
      split_ifs with hv hy hy
      case pos => rw [hy, hx, hv]
      case neg => rfl
      case pos => rw [read_cons, if_pos hy.symm]
      case neg => rw [read_cons, if_neg (Ne.symm hy)]
    · rw [if_neg hxa]
      by_cases hx : x = a
      · subst hx
        have hxm : Memory.read m x = Memory.unlisted := read_of_not_listed fun c hc => (hlt c hc).ne'
        rw [if_pos rfl]
        split_ifs with hv hy hy
        case pos => rw [hy, hxm, hv]
        case neg => rw [read_cons, if_neg (Ne.symm hy)]
        case pos => rw [read_cons, if_pos hy.symm]
        case neg => rw [read_cons, read_cons, if_neg (Ne.symm hy), if_neg (Ne.symm hy)]
      · rw [if_neg hx, read_cons, read_cons, ih hm]
        split_ifs with hay hyx
        · exact absurd (hyx.symm.trans hay.symm) hx
        all_goals rfl

/-- Settles O30 by `read_write`, an induction on the entries. -/
theorem channelByteReadsBackAsWritten : Obligations.ChannelByteReadsBackAsWritten :=
  fun _ x y v hwf => read_write hwf x v y

/-- After a copy the range copied holds the bytes in order, and every other address what it held. -/
theorem read_writeBytes {m : Memory} (hwf : Memory.wf m) (x : Nat) (vs : List Byte) (y : Nat) :
    Memory.read (Memory.writeBytes m x vs) y =
      if x ≤ y ∧ y < x + vs.length then vs.getD (y - x) 0x00#8 else Memory.read m y := by
  induction vs generalizing m x with
  | nil => rw [if_neg (by simp only [List.length_nil]; omega), Memory.writeBytes]
  | cons v vs ih =>
    rw [Memory.writeBytes, ih (memory_write_wf m x v hwf), read_write hwf, List.length_cons]
    by_cases hyx : y = x
    · rw [if_neg (by omega), if_pos hyx, if_pos (by omega), hyx, Nat.sub_self, List.getD_cons_zero]
    · rw [if_neg hyx]
      by_cases hrange : x + 1 ≤ y ∧ y < x + 1 + vs.length
      · rw [if_pos hrange, if_pos (by omega), show y - x = (y - (x + 1)) + 1 by omega, List.getD_cons_succ]
      · rw [if_neg hrange, if_neg (by omega)]

theorem readBytes_eq_map (m : Memory) (x n : Nat) :
    Memory.readBytes m x n = (List.range n).map fun j => Memory.read m (x + j) := by
  induction n generalizing x with
  | zero => rfl
  | succ n ih =>
    rw [Memory.readBytes, ih, List.range_succ_eq_map, List.map_cons, List.map_map]
    simp only [Function.comp_def, Nat.succ_eq_add_one, Nat.add_assoc, Nat.add_comm 1, Nat.add_zero]

/-! ### The copy of an accept (45_host_command_path.md R137) -/

/-- The copied range holds the payload's first bytes, and every other byte is 0. -/
theorem read_copyIn {payload : List Byte} {n : Nat} (hn : n ≤ payload.length) (offset a : Nat) :
    Memory.read (copyIn offset payload n) a =
      if offset ≤ a ∧ a < offset + n then payload.getD (a - offset) 0x00#8 else 0x00#8 := by
  rw [copyIn, read_writeBytes memory_cleared_wf, List.length_take_of_le hn]
  split_ifs with h
  · rw [List.getD_eq_getElem?_getD, List.getD_eq_getElem?_getD, List.getElem?_take_of_lt (by omega)]
  · rfl

/-- The bytes parsed are the bytes copied. -/
theorem readBytes_copyIn {payload : List Byte} {n : Nat} (hn : n ≤ payload.length) (offset : Nat) :
    Memory.readBytes (copyIn offset payload n) offset n = payload.take n := by
  refine List.ext_getElem? fun j => ?_
  rw [readBytes_eq_map, List.getElem?_map, List.getElem?_take]
  by_cases hj : j < n
  · have hlt : j < payload.length := Nat.lt_of_lt_of_le hj hn
    rw [List.getElem?_range hj, Option.map_some, read_copyIn hn, if_pos (by omega), if_pos hj, Nat.add_sub_cancel_left,
      List.getElem?_eq_getElem hlt, List.getD_eq_getElem _ _ hlt]
  · rw [if_neg hj, List.getElem?_eq_none (by simpa using hj), Option.map_none]

/-- The parse of the bytes an accept copies. -/
def copiedScan (n : Nat) (payload : List Byte) (s : State) : Scan := scanBytes s.cfg.hexLimit (payload.take n)

/-- `s` after a successful accept of `n` bytes: the channel and the cursor, the parse with its diagnostics, and the
actions that wait (45_host_command_path.md R137, R138). -/
def afterAccept (offset n : Nat) (payload : List Byte) (s : State) : State :=
  { s with
    block := { s.block with trace := s.block.trace ++ scanLogs (copiedScan n payload s) }
    host := { s.host with
      buf := copyIn offset payload n
      cursor := offset + n
      outcome := (copiedScan n payload s).outcome
      call := .running (expand (resolve (copiedScan n payload s).outcome)) (.accepted n) } }

theorem acceptEffect_succeeds {offset n : Nat} {payload : List Byte} {fails : Bool} {s : State}
    (hoffset : offset < s.cfg.cap) (hfails : fails = true → payload = [])
    (hn : n = min payload.length (s.cfg.cap - offset)) :
    acceptEffect offset payload fails s = afterAccept offset n payload s := by
  subst hn
  have hread := readBytes_copyIn (Nat.min_le_left payload.length (s.cfg.cap - offset)) offset
  rw [acceptEffect_copies hoffset hfails, clampLen]
  simp only [beginExecution, setChannel_buf, setChannel_cfg, hread, emitAll_logs _ (scanLogs_isLog _)]
  rfl

theorem step_accept {s : State} {offset : Nat} {payload : List Byte} {fails : Bool} {rest : List HostRequest}
    (hturn : s.HostTurn) (hreq : s.host.requests = .accept offset payload fails :: rest) :
    step s = .next (acceptEffect offset payload fails (setRequests rest s)) := by
  rw [step_of_hostTurn hturn, takeRequest_accept hreq]

theorem step_accept_succeeds {s : State} {offset n : Nat} {payload : List Byte} {fails : Bool} {rest : List HostRequest}
    (hturn : s.HostTurn) (hreq : s.host.requests = .accept offset payload fails :: rest)
    (hfails : fails = true → payload = []) (hoffset : offset < s.cfg.cap)
    (hn : n = min payload.length (s.cfg.cap - offset)) :
    step s = .next (afterAccept offset n payload (setRequests rest s)) := by
  rw [step_accept hturn hreq, acceptEffect_succeeds (s := setRequests rest s) hoffset hfails hn]

/-- Settles O31: the copy is the payload clamped to the capacity, and the parse reads what was copied. -/
theorem acceptCopiesClearsAndParses : Obligations.AcceptCopiesClearsAndParses := by
  intro s offset payload fails rest n hturn hreq hfails hoffset hn
  refine ⟨copyIn offset payload n, ?_, fun a => read_copyIn (hn ▸ Nat.min_le_left _ _) offset a⟩
  exact step_accept_succeeds hturn hreq hfails hoffset hn

/-- Settles O32: the bound is checked first. -/
theorem acceptBeyondCapacityReturnsOutOfSpace : Obligations.AcceptBeyondCapacityReturnsOutOfSpace := by
  intro s offset payload fails rest hturn hreq hcap
  rw [step_accept hturn hreq, acceptEffect_beyond (s := setRequests rest s) hcap, reply, setRequests]

/-- Settles O33: the buffer holds free bytes, as many as the capacity. -/
theorem acceptTransferFaultRunsNoParse : Obligations.AcceptTransferFaultRunsNoParse := by
  intro s offset payload rest hturn hreq hpayload hoffset
  refine ⟨Memory.anyBytes s.cfg.cap s.free, s.free + s.cfg.cap, ?_, memory_anyBytes_wf _ _, memory_anyBytes_addr _ _⟩
  rw [step_accept hturn hreq, acceptEffect_fault (s := setRequests rest s) hoffset hpayload]
  rfl

/-! ### Retrieve (45_host_command_path.md R139 to R142) -/

theorem step_retrieve {s : State} {offset maxLen : Nat} {fails : Bool} {rest : List HostRequest} (hturn : s.HostTurn)
    (hreq : s.host.requests = .retrieve offset maxLen fails :: rest) :
    step s = .next (retrieveEffect offset maxLen fails (setRequests rest s)) := by
  rw [step_of_hostTurn hturn, takeRequest_retrieve hreq]

theorem retrieveEffect_beyond {offset maxLen : Nat} {fails : Bool} {s : State} (h : s.cfg.cap ≤ offset) :
    retrieveEffect offset maxLen fails s = reply (.bytes []) s :=
  if_pos h

theorem retrieveEffect_fault {offset maxLen : Nat} {s : State} (h : offset < s.cfg.cap) :
    retrieveEffect offset maxLen true s = reply .transferFault s := by
  rw [retrieveEffect, if_neg (Nat.not_le.mpr h), if_pos rfl]

theorem retrieveEffect_reads {offset maxLen : Nat} {s : State} (h : offset < s.cfg.cap) :
    retrieveEffect offset maxLen false s =
      let n := clampLen s.cfg.cap offset maxLen
      reply (.bytes (Memory.readBytes s.host.buf offset n)) (setChannel s.host.buf (offset + n) s) := by
  rw [retrieveEffect, if_neg (Nat.not_le.mpr h), if_neg Bool.false_ne_true]

/-- Settles O34: the bytes are read one by one, and the buffer stored back is the one read. -/
theorem retrieveReturnsTheBufferBytes : Obligations.RetrieveReturnsTheBufferBytes := by
  intro s offset maxLen rest n hturn hreq hoffset hn
  rw [step_retrieve hturn hreq, retrieveEffect_reads (s := setRequests rest s) hoffset, hn, ← readBytes_eq_map]
  rfl

/-- Settles O35: the bound is checked before the copy. -/
theorem retrieveEndsOrFaultsWithoutEffect : Obligations.RetrieveEndsOrFaultsWithoutEffect := by
  intro s offset maxLen fails rest hturn hreq
  rw [step_retrieve hturn hreq]
  refine ⟨fun hcap => ?_, fun hoffset hfails => ?_⟩
  · rw [retrieveEffect_beyond (s := setRequests rest s) hcap, reply, setRequests]
  · rw [hfails, retrieveEffect_fault (s := setRequests rest s) hoffset, reply, setRequests]

end Sys2Proof.Proofs
end

section
/-! PROOFS. The parser: tokens, their classes, hex values and the scan (45_host_command_path.md R120 to R129). -/

namespace Sys2Proof.Proofs

open Sys2Proof.Machine

/-! ### Tokens (45_host_command_path.md R122) -/

theorem tokens_cons_space (bs : List Byte) : tokens (0x20#8 :: bs) = [] :: tokens bs :=
  if_pos rfl

/-- Any other byte goes to the front of the first token. -/
theorem tokens_cons_byte {b : Byte} {bs t : List Byte} {ts : List (List Byte)} (hb : b ≠ 0x20#8)
    (h : tokens bs = t :: ts) : tokens (b :: bs) = (b :: t) :: ts := by
  rw [tokens, if_neg hb, h]

theorem exists_tokens_eq_cons (bs : List Byte) : ∃ t ts, tokens bs = t :: ts := by
  induction bs with
  | nil => exact ⟨_, _, rfl⟩
  | cons b bs ih =>
    by_cases hb : b = 0x20#8
    · exact ⟨_, _, by rw [hb, tokens_cons_space]⟩
    · obtain ⟨t, ts, h⟩ := ih
      exact ⟨_, _, tokens_cons_byte hb h⟩

/-- A byte put before the first part is the first byte of the join. -/
theorem intercalate_cons_cons (sep t : List Byte) (b : Byte) (ts : List (List Byte)) :
    List.intercalate sep ((b :: t) :: ts) = b :: List.intercalate sep (t :: ts) := by
  cases ts <;> simp [List.intercalate]

theorem intercalate_nil_cons (sep t : List Byte) (ts : List (List Byte)) :
    List.intercalate sep ([] :: t :: ts) = sep ++ List.intercalate sep (t :: ts) := by
  simp [List.intercalate]

theorem intercalate_tokens (bytes : List Byte) : List.intercalate [0x20#8] (tokens bytes) = bytes := by
  induction bytes with
  | nil => rfl
  | cons b bs ih =>
    obtain ⟨t, ts, h⟩ := exists_tokens_eq_cons bs
    rw [h] at ih
    by_cases hb : b = 0x20#8
    · rw [hb, tokens_cons_space, h, intercalate_nil_cons, ih, List.singleton_append]
    · rw [tokens_cons_byte hb h, intercalate_cons_cons, ih]

theorem space_not_mem_token {bytes t : List Byte} (ht : t ∈ tokens bytes) : 0x20#8 ∉ t := by
  induction bytes generalizing t with
  | nil =>
    rw [List.mem_singleton.mp ht]
    exact List.not_mem_nil
  | cons b bs ih =>
    obtain ⟨u, us, h⟩ := exists_tokens_eq_cons bs
    by_cases hb : b = 0x20#8
    · rw [hb, tokens_cons_space] at ht
      rcases List.mem_cons.mp ht with rfl | ht
      · exact List.not_mem_nil
      · exact ih ht
    · rw [tokens_cons_byte hb h] at ht
      rcases List.mem_cons.mp ht with rfl | ht
      · exact List.not_mem_cons_of_ne_of_not_mem (Ne.symm hb) (ih (h ▸ List.mem_cons_self))
      · exact ih (h ▸ List.mem_cons_of_mem _ ht)

/-- Settles O36: both parts by induction on the input. -/
theorem tokensAreTheInputSplitAtSpaces : Obligations.TokensAreTheInputSplitAtSpaces :=
  fun bytes => ⟨intercalate_tokens bytes, fun _ ht => space_not_mem_token ht⟩

/-! ### The first "0x" of a token (45_host_command_path.md R124) -/

/-- The two bytes of "0x". -/
def zeroX : List Byte := [0x30#8, 0x78#8]

theorem ascii_zeroX : ascii ['0', 'x'] = zeroX := rfl

theorem zeroX_prefix_cons_iff (b : Byte) (bs : List Byte) :
    zeroX <+: b :: bs ↔ b = 0x30#8 ∧ bs.head? = some 0x78#8 := by
  rw [zeroX, List.cons_prefix_cons]
  cases bs with
  | nil => simp
  | cons c cs => simp [eq_comm]

theorem afterFirst0x_of_prefix {b : Byte} {bs : List Byte} (h : zeroX <+: b :: bs) :
    afterFirst0x (b :: bs) = some bs.tail :=
  if_pos ((zeroX_prefix_cons_iff b bs).mp h)

theorem afterFirst0x_of_not_prefix {b : Byte} {bs : List Byte} (h : ¬zeroX <+: b :: bs) :
    afterFirst0x (b :: bs) = afterFirst0x bs :=
  if_neg fun hp => h ((zeroX_prefix_cons_iff b bs).mpr hp)

theorem exists_afterFirst0x_iff (t : List Byte) : (∃ v, afterFirst0x t = some v) ↔ zeroX <:+: t := by
  induction t with
  | nil => simp [afterFirst0x, zeroX]
  | cons b bs ih =>
    rw [List.infix_cons_iff]
    by_cases hp : zeroX <+: b :: bs
    · simp [afterFirst0x_of_prefix hp, hp]
    · simp [afterFirst0x_of_not_prefix hp, hp, ih]

/-- Before a "0x" the text up to its '0' begins with "0x" exactly where the whole text does. -/
theorem zeroX_prefix_cons_append_iff (b : Byte) (before v : List Byte) :
    zeroX <+: b :: (before ++ ascii ['0']) ↔ zeroX <+: b :: (before ++ zeroX ++ v) := by
  rw [zeroX_prefix_cons_iff, zeroX_prefix_cons_iff]
  cases before <;> rfl

theorem afterFirst0x_eq_some_iff (t v : List Byte) :
    afterFirst0x t = some v ↔ ∃ before, t = before ++ zeroX ++ v ∧ ¬zeroX <:+: before ++ ascii ['0'] := by
  induction t with
  | nil => simp [afterFirst0x, zeroX]
  | cons b bs ih =>
    by_cases hp : zeroX <+: b :: bs
    · rw [afterFirst0x_of_prefix hp, Option.some.injEq]
      obtain ⟨rest, hrest⟩ := hp
      obtain ⟨rfl, rfl⟩ : 0x30#8 = b ∧ 0x78#8 :: rest = bs := by simpa [zeroX] using hrest
      constructor
      · rintro rfl
        exact ⟨[], rfl, by decide⟩
      · rintro ⟨before, ht, hfirst⟩
        cases before with
        | nil => simpa [zeroX] using ht
        | cons c before =>
          obtain ⟨rfl, htail⟩ := List.cons.inj ht
          have hprefix : zeroX <+: 0x30#8 :: (before ++ zeroX ++ v) := ⟨rest, congrArg (0x30#8 :: ·) htail⟩
          exact absurd ((zeroX_prefix_cons_append_iff _ before v).mpr hprefix).isInfix hfirst
    · rw [afterFirst0x_of_not_prefix hp, ih]
      constructor
      · rintro ⟨before, rfl, hfirst⟩
        refine ⟨b :: before, rfl, ?_⟩
        rw [List.cons_append, List.infix_cons_iff, zeroX_prefix_cons_append_iff _ before v]
        exact not_or.mpr ⟨hp, hfirst⟩
      · rintro ⟨before, ht, hfirst⟩
        cases before with
        | nil => exact absurd ⟨v, ht.symm⟩ hp
        | cons c before =>
          obtain ⟨rfl, htail⟩ := List.cons.inj ht
          exact ⟨before, htail, fun hinfix => hfirst (List.infix_cons hinfix)⟩

/-! ### Classes (45_host_command_path.md R123) -/

/-- The spellings of one flag are no spellings of the flags before it in the classification. -/
theorem spellings_disjoint :
    (∀ t ∈ countdownSpellings, t ∉ displaySpellings) ∧
    ∀ t ∈ countupSpellings, t ∉ displaySpellings ∧ t ∉ countdownSpellings := by decide

/-- No flag's spelling contains "0x". -/
theorem afterFirst0x_of_spelling :
    ∀ t ∈ displaySpellings ++ countdownSpellings ++ countupSpellings, afterFirst0x t = none := by decide

theorem classify_of_display {t : List Byte} (h : t ∈ displaySpellings) : classify t = .displayFlag :=
  if_pos h

theorem classify_of_countdown {t : List Byte} (h : t ∈ countdownSpellings) : classify t = .countdownFlag := by
  rw [classify, if_neg (spellings_disjoint.1 t h), if_pos h]

theorem classify_of_countup {t : List Byte} (h : t ∈ countupSpellings) : classify t = .countupFlag := by
  obtain ⟨hdisplay, hcountdown⟩ := spellings_disjoint.2 t h
  rw [classify, if_neg hdisplay, if_neg hcountdown, if_pos h]

/-- The five classes, each with the condition of R123. -/
theorem classify_cases (t : List Byte) :
    (t ∈ displaySpellings ∧ classify t = .displayFlag) ∨ (t ∈ countdownSpellings ∧ classify t = .countdownFlag) ∨
    (t ∈ countupSpellings ∧ classify t = .countupFlag) ∨
    (∃ v, 3 ≤ t.length ∧ afterFirst0x t = some v ∧ classify t = .hexLiteral v) ∨
    (classify t = .ignored ∧ ∀ v, 3 ≤ t.length → afterFirst0x t ≠ some v) := by
  by_cases hdisplay : t ∈ displaySpellings
  · exact .inl ⟨hdisplay, classify_of_display hdisplay⟩
  by_cases hcountdown : t ∈ countdownSpellings
  · exact .inr (.inl ⟨hcountdown, classify_of_countdown hcountdown⟩)
  by_cases hcountup : t ∈ countupSpellings
  · exact .inr (.inr (.inl ⟨hcountup, classify_of_countup hcountup⟩))
  rw [classify, if_neg hdisplay, if_neg hcountdown, if_neg hcountup]
  cases h0x : afterFirst0x t with
  | none => simp
  | some v =>
    by_cases hlength : 3 ≤ t.length
    · exact .inr (.inr (.inr (.inl ⟨v, hlength, rfl, if_pos hlength⟩)))
    · exact .inr (.inr (.inr (.inr ⟨if_neg hlength, fun _ h => absurd h hlength⟩)))

theorem classify_eq_displayFlag_iff (t : List Byte) : classify t = .displayFlag ↔ t ∈ displaySpellings := by
  refine ⟨fun h => ?_, classify_of_display⟩
  rcases classify_cases t with ⟨hmem, -⟩ | ⟨-, hc⟩ | ⟨-, hc⟩ | ⟨v, -, -, hc⟩ | ⟨hc, -⟩
  · exact hmem
  all_goals cases h.symm.trans hc

theorem classify_eq_countdownFlag_iff (t : List Byte) : classify t = .countdownFlag ↔ t ∈ countdownSpellings := by
  refine ⟨fun h => ?_, classify_of_countdown⟩
  rcases classify_cases t with ⟨-, hc⟩ | ⟨hmem, -⟩ | ⟨-, hc⟩ | ⟨v, -, -, hc⟩ | ⟨hc, -⟩
  case inr.inl => exact hmem
  all_goals cases h.symm.trans hc

theorem classify_eq_countupFlag_iff (t : List Byte) : classify t = .countupFlag ↔ t ∈ countupSpellings := by
  refine ⟨fun h => ?_, classify_of_countup⟩
  rcases classify_cases t with ⟨-, hc⟩ | ⟨-, hc⟩ | ⟨hmem, -⟩ | ⟨v, -, -, hc⟩ | ⟨hc, -⟩
  case inr.inr.inl => exact hmem
  all_goals cases h.symm.trans hc

theorem afterFirst0x_ne_of_spelling {t v : List Byte}
    (h : t ∈ displaySpellings ∨ t ∈ countdownSpellings ∨ t ∈ countupSpellings) : afterFirst0x t ≠ some v := by
  rw [afterFirst0x_of_spelling t (by simpa [or_assoc] using h)]
  exact Option.some_ne_none v |>.symm

theorem classify_eq_hexLiteral_iff (t v : List Byte) :
    classify t = .hexLiteral v ↔ 3 ≤ t.length ∧ afterFirst0x t = some v := by
  rcases classify_cases t with ⟨hmem, hc⟩ | ⟨hmem, hc⟩ | ⟨hmem, hc⟩ | ⟨u, hlength, hu, hc⟩ | ⟨hc, hnone⟩
  · simp [hc, afterFirst0x_ne_of_spelling (.inl hmem)]
  · simp [hc, afterFirst0x_ne_of_spelling (.inr (.inl hmem))]
  · simp [hc, afterFirst0x_ne_of_spelling (.inr (.inr hmem))]
  · simp [hc, hlength, hu]
  · simpa [hc] using hnone v

/-- Settles O37: the two spellings of each flag are listed, and a hex literal is decided by its first "0x". -/
theorem tokenClassesByExactComparison : Obligations.TokenClassesByExactComparison := by
  intro t
  refine ⟨?_, ?_, ?_, ?_⟩
  · rw [classify_eq_displayFlag_iff, displaySpellings, List.mem_pair]
  · rw [classify_eq_countdownFlag_iff, countdownSpellings, List.mem_pair]
  · rw [classify_eq_countupFlag_iff, countupSpellings, List.mem_pair]
  · constructor
    · rintro ⟨v, hv⟩
      obtain ⟨hlength, h0x⟩ := (classify_eq_hexLiteral_iff t v).mp hv
      exact ⟨(exists_afterFirst0x_iff t).mp ⟨v, h0x⟩, hlength⟩
    · rintro ⟨hinfix, hlength⟩
      obtain ⟨v, h0x⟩ := (exists_afterFirst0x_iff t).mpr hinfix
      exact ⟨v, (classify_eq_hexLiteral_iff t v).mpr ⟨hlength, h0x⟩⟩

/-- Settles O38: a hex literal's class carries what follows its first "0x". -/
theorem hexLiteralTextFollowsFirst0x : Obligations.HexLiteralTextFollowsFirst0x := by
  intro t v
  rw [classify_eq_hexLiteral_iff, afterFirst0x_eq_some_iff, ascii_zeroX]

/-! ### Hex values (45_host_command_path.md R125, R143) -/

/-- The digits read from `acc` on are a number in base 16 that continues `acc`. -/
theorem hexDigits_eq_some_iff (acc : Nat) (t : List Byte) (v : Nat) :
    hexDigits acc t = some v ↔ ∃ values : List Nat,
      t.map hexDigit = values.map some ∧ v = acc * 16 ^ t.length + Nat.ofDigits 16 values.reverse := by
  induction t generalizing acc with
  | nil =>
    constructor
    · rintro ⟨⟩
      exact ⟨[], rfl, by simp⟩
    · rintro ⟨_ | ⟨w, ws⟩, hmap, rfl⟩
      · simp [hexDigits]
      · simp at hmap
  | cons b bs ih =>
    rw [hexDigits]
    cases hb : hexDigit b with
    | none =>
      refine iff_of_false (by simp) ?_
      rintro ⟨_ | ⟨w, ws⟩, hmap, -⟩ <;> simp [hb] at hmap
    | some w =>
      have hvalue (ws : List Nat) (hlength : ws.length = bs.length) :
          (acc * 16 + w) * 16 ^ bs.length + Nat.ofDigits 16 ws.reverse =
            acc * 16 ^ (b :: bs).length + Nat.ofDigits 16 (w :: ws).reverse := by
        rw [Nat.ofDigits_reverse_cons, hlength, List.length_cons]
        ring
      rw [ih]
      constructor
      · rintro ⟨ws, hmap, rfl⟩
        have hlength : ws.length = bs.length := by simpa using (congrArg List.length hmap).symm
        exact ⟨w :: ws, by rw [List.map_cons, hb, hmap, List.map_cons], hvalue ws hlength⟩
      · rintro ⟨_ | ⟨u, ws⟩, hmap, rfl⟩
        · simp at hmap
        · obtain ⟨rfl, htail⟩ : w = u ∧ bs.map hexDigit = ws.map some := by simpa [hb] using hmap
          have hlength : ws.length = bs.length := by simpa using (congrArg List.length htail).symm
          exact ⟨ws, htail, (hvalue ws hlength).symm⟩

/-- A text less one trailing LF: the text itself, if it does not end in one. -/
theorem dropTrailingLF_eq_iff (text digits : List Byte) :
    dropTrailingLF text = digits ↔
      text = digits ++ [0x0A#8] ∨ text = digits ∧ digits.getLast? ≠ some 0x0A#8 := by
  rw [dropTrailingLF]
  constructor
  · split_ifs with hlast
    · rintro rfl
      obtain ⟨before, rfl⟩ := List.getLast?_eq_some_iff.mp hlast
      exact .inl (by rw [List.dropLast_concat])
    · rintro rfl
      exact .inr ⟨rfl, hlast⟩
  · rintro (rfl | ⟨rfl, hlast⟩)
    · rw [if_pos (by simp), List.dropLast_concat]
    · rw [if_neg hlast]

theorem withinLimit_iff (limit : Option Nat) (v : Nat) : withinLimit limit v = true ↔ ∀ m, limit = some m → v ≤ m := by
  cases limit <;> simp [withinLimit]

theorem hexValue_eq_some_iff (limit : Option Nat) (text : List Byte) (v : Nat) :
    hexValue limit text = some v ↔
      dropTrailingLF text ≠ [] ∧ hexDigits 0 (dropTrailingLF text) = some v ∧ withinLimit limit v = true := by
  simp only [hexValue]
  by_cases hempty : dropTrailingLF text = []
  · simp [hempty]
  · rw [if_neg hempty]
    cases hdigits : hexDigits 0 (dropTrailingLF text) with
    | none => simp
    | some u =>
      simp only [Option.ite_none_right_eq_some, Option.some.injEq, ne_eq, hempty, not_false_eq_true, true_and]
      constructor
      · rintro ⟨hlimit, rfl⟩
        exact ⟨rfl, hlimit⟩
      · rintro ⟨rfl, hlimit⟩
        exact ⟨hlimit, rfl⟩

theorem hexDigit_eq_idxOf (b : Byte) : hexDigit b =
    ((ascii ['0', '1', '2', '3', '4', '5', '6', '7', '8', '9', 'a', 'b', 'c', 'd', 'e', 'f']).idxOf? b).or
      ((ascii ['0', '1', '2', '3', '4', '5', '6', '7', '8', '9', 'A', 'B', 'C', 'D', 'E', 'F']).idxOf? b) := by
  revert b; decide

/-- Settles O39: the digits are those of the text less its LF, read from 0 on. -/
theorem hexValueIsTheBase16Sum : Obligations.HexValueIsTheBase16Sum := by
  refine ⟨hexDigit_eq_idxOf, fun limit text v => ?_⟩
  rw [hexValue_eq_some_iff]
  constructor
  · rintro ⟨hne, hdigits, hlimit⟩
    obtain ⟨values, hmap, hv⟩ := (hexDigits_eq_some_iff 0 _ v).mp hdigits
    exact ⟨_, values, (dropTrailingLF_eq_iff text _).mp rfl, hne, hmap, by simpa using hv,
      (withinLimit_iff limit v).mp hlimit⟩
  · rintro ⟨digits, values, htext, hne, hmap, hv, hlimit⟩
    rw [(dropTrailingLF_eq_iff text digits).mpr htext]
    exact ⟨hne, (hexDigits_eq_some_iff 0 digits v).mpr ⟨values, hmap, by simpa using hv⟩,
      (withinLimit_iff limit v).mpr hlimit⟩

/-! ### The scan (45_host_command_path.md R126, R128) -/

/-- The outcome `o` with the flags set that the tokens `ts` set. -/
def withFlags (ts : List (List Byte)) (o : ParseOutcome) : ParseOutcome :=
  { o with
    display := o.display || ts.any fun u => classify u = .displayFlag
    countdown := o.countdown || ts.any fun u => classify u = .countdownFlag
    countup := o.countup || ts.any fun u => classify u = .countupFlag }

/-- Tokens that resolve to no value only set their flags, and the hex literals among them fail. -/
theorem scan_append_of_unresolved {limit : Option Nat} {before : List (List Byte)}
    (h : ∀ u ∈ before, tokenValue limit u = none) (ts : List (List Byte)) (o : ParseOutcome) :
    scan limit (before ++ ts) o =
      { failed := before.filter isHexToken ++ (scan limit ts (withFlags before o)).failed
        outcome := (scan limit ts (withFlags before o)).outcome } := by
  induction before generalizing o with
  | nil => simp [withFlags]
  | cons t before ih =>
    have ih := ih fun u hu => h u (List.mem_cons_of_mem _ hu)
    have ht := h t List.mem_cons_self
    rw [List.cons_append, scan]
    cases hc : classify t with
    | displayFlag => simp [ih, isHexToken, hc, withFlags, setDisplayFlag]
    | countdownFlag => simp [ih, isHexToken, hc, withFlags, setCountdownFlag]
    | countupFlag => simp [ih, isHexToken, hc, withFlags, setCountupFlag]
    | ignored => simp [ih, isHexToken, hc, withFlags]
    | hexLiteral v =>
      have hv : hexValue limit v = none := by simpa [tokenValue, hc] using ht
      simp [ih, isHexToken, hc, hv, withFlags, addFailed]

/-- The first token that resolves to a value ends the scan. -/
theorem scan_cons_of_value {limit : Option Nat} {t : List Byte} {n : Nat} (h : tokenValue limit t = some n)
    (ts : List (List Byte)) (o : ParseOutcome) :
    scan limit (t :: ts) o = { failed := [], outcome := setResolved n o } := by
  rw [scan]
  cases hc : classify t with
  | hexLiteral v =>
    have hv : hexValue limit v = some n := by simpa [tokenValue, hc] using h
    simp [hv]
  | displayFlag => simp [tokenValue, hc] at h
  | countdownFlag => simp [tokenValue, hc] at h
  | countupFlag => simp [tokenValue, hc] at h
  | ignored => simp [tokenValue, hc] at h

/-- Settles O40: the tokens before the first value only set flags, and without a value the command is NoOption. -/
theorem parseStopsAtTheFirstValue : Obligations.ParseStopsAtTheFirstValue := by
  refine ⟨fun limit bytes before t later n htokens hbefore ht => ?value, fun limit bytes hall => ?noValue⟩
  case value =>
    have hscan : scanBytes limit bytes =
        { failed := before.filter isHexToken, outcome := setResolved n (withFlags before .fresh) } := by
      rw [scanBytes, htokens, scan_append_of_unresolved hbefore, scan_cons_of_value ht, List.append_nil]
    rw [parse, hscan]
    exact ⟨rfl, resolve_of_value rfl rfl⟩
  case noValue =>
    have hscan : scanBytes limit bytes =
        { failed := (tokens bytes).filter isHexToken, outcome := withFlags (tokens bytes) .fresh } := by
      rw [scanBytes, ← List.append_nil (tokens bytes), scan_append_of_unresolved (by simpa using hall), scan,
        List.append_nil, List.append_nil]
    rw [parse, hscan]
    exact ⟨rfl, resolve_of_unresolved rfl⟩

end Sys2Proof.Proofs
end

section
/-! PROOFS. The controller's expansions and their runs to the reply of the accept (45_host_command_path.md R130 to
R138). -/

namespace Sys2Proof.Proofs

open Sys2Proof.Machine

/-! ### Expansions (45_host_command_path.md R130 to R134) -/

theorem encode_writeDigit (d : Digit) : encode (.writeDigit d) = 0x40#8 ||| BitVec.ofNat 8 d.toNat := by
  revert d; decide

/-- The word issued for a value 0 to 15 is 0x40 with the value in its low bits. -/
theorem issueDigit_of_le {v : Nat} (h : v ≤ 15) : issueDigit v = .issue (0x40#8 ||| BitVec.ofNat 8 v) := by
  rw [issueDigit, encode_writeDigit, toNat_digit_of_lt (Nat.lt_succ_of_le h)]

theorem inRange_of_le {v : Nat} (h : v ≤ 15) : inRange v = true :=
  decide_eq_true h

theorem inRange_of_gt {v : Nat} (h : 15 < v) : ¬inRange v = true := by
  simpa [inRange] using h

theorem expand_display_of_le {v : Nat} (h : v ≤ 15) : expand (.display v) = [issueDigit v] := by
  rw [expand, if_pos (inRange_of_le h)]

theorem expand_countDown_of_le {v : Nat} (h : v ≤ 15) : expand (.countDown v) = countDownActions v := by
  rw [expand, if_pos (inRange_of_le h)]

theorem expand_countUp_of_le {v : Nat} (h : v ≤ 15) : expand (.countUp v) = countUpActions (15 - v) v := by
  rw [expand, if_pos (inRange_of_le h)]

/-- Above 15 each of the three commands is one range diagnostic (92_eei_decisions.md D37). -/
theorem expand_of_gt {v : Nat} (h : 15 < v) :
    expand (.display v) = [.log .rangeError (.value v)] ∧
    expand (.countDown v) = [.log .rangeError (.value v)] ∧
    expand (.countUp v) = [.log .rangeError (.value v)] := by
  refine ⟨?_, ?_, ?_⟩ <;> rw [expand, if_neg (inRange_of_gt h), rangeError]

/-- Settles O42: the range check chooses between the diagnostic and the word. -/
theorem outOfRangeValuesAreLoggedAndDropped : Obligations.OutOfRangeValuesAreLoggedAndDropped :=
  ⟨fun _ h => expand_of_gt h, fun v h => by rw [expand_display_of_le h, issueDigit_of_le h]⟩

/-- The words of the values `vs` with a sleep between two of them (45_host_command_path.md R132, R133). -/
def spacedDigits (vs : List Nat) : List HostAction := (vs.map issueDigit).intersperse .sleep

theorem spacedDigits_cons {vs : List Nat} (h : vs ≠ []) (v : Nat) :
    spacedDigits (v :: vs) = issueDigit v :: .sleep :: spacedDigits vs := by
  cases vs with
  | nil => exact absurd rfl h
  | cons w vs => rfl

/-- The values of a count-down. -/
def downFrom (v : Nat) : List Nat := (List.range (v + 1)).reverse

/-- The values of a count-up of `n + 1` values. -/
def upFrom (n v : Nat) : List Nat := (List.range (n + 1)).map (v + ·)

theorem downFrom_succ (v : Nat) : downFrom (v + 1) = (v + 1) :: downFrom v := by
  rw [downFrom, List.range_succ, List.reverse_append, List.reverse_singleton, List.singleton_append, downFrom]

theorem upFrom_succ (n v : Nat) : upFrom (n + 1) v = v :: upFrom n (v + 1) := by
  rw [upFrom, List.range_succ_eq_map, List.map_cons, List.map_map, upFrom]
  simp [Function.comp_def, Nat.add_assoc, Nat.add_comm 1]

theorem downFrom_ne_nil (v : Nat) : downFrom v ≠ [] := by simp [downFrom]

theorem upFrom_ne_nil (n v : Nat) : upFrom n v ≠ [] := by simp [upFrom]

@[simp] theorem downFrom_length (v : Nat) : (downFrom v).length = v + 1 := by simp [downFrom]

@[simp] theorem upFrom_length (n v : Nat) : (upFrom n v).length = n + 1 := by simp [upFrom]

theorem countDownActions_eq (v : Nat) : countDownActions v = spacedDigits (downFrom v) := by
  induction v with
  | zero => rfl
  | succ v ih => rw [countDownActions, ih, downFrom_succ, spacedDigits_cons (downFrom_ne_nil v)]

theorem countUpActions_eq (n v : Nat) : countUpActions n v = spacedDigits (upFrom n v) := by
  induction n generalizing v with
  | zero => rfl
  | succ n ih => rw [countUpActions, ih, upFrom_succ, spacedDigits_cons (upFrom_ne_nil n _)]

/-- For values 0 to 15 the words are those of the encoding. -/
theorem spacedDigits_of_le {vs : List Nat} (h : ∀ v ∈ vs, v ≤ 15) :
    spacedDigits vs = (vs.map fun v => HostAction.issue (0x40#8 ||| BitVec.ofNat 8 v)).intersperse .sleep := by
  rw [spacedDigits, List.map_congr_left fun v hv => issueDigit_of_le (h v hv)]

/-! ### One action of an accept in progress -/

theorem step_return {s : State} {r : Reply} (hready : s.Ready) (hcall : s.host.call = .running [] r) :
    step s = .next (reply r (setCall .idle s)) := by
  rw [step_of_running hready hcall, continueCall]

theorem step_sleep {s : State} {rest : List HostAction} {r : Reply} (hready : s.Ready)
    (hcall : s.host.call = .running (.sleep :: rest) r) :
    step s = .next (emit (.sleep 1) (setCall (.running rest r) s)) := by
  rw [step_of_running hready hcall, continueCall, runAction, Config.tCount]

theorem step_log {s : State} {rest : List HostAction} {r : Reply} {c : Cause} {i : Info} (hready : s.Ready)
    (hcall : s.host.call = .running (.log c i :: rest) r) :
    step s = .next (logDiagnostic c i (setCall (.running rest r) s)) := by
  rw [step_of_running hready hcall, continueCall, runAction]

/-- A WRITE_DIGIT word of an accept reaches the block as the operation. -/
theorem step_issueDigit {s : State} {v : Nat} {rest : List HostAction} {r : Reply} (hready : s.Ready)
    (hcall : s.host.call = .running (issueDigit v :: rest) r) :
    step s = .next (writeDigitEffect (BitVec.ofNat 4 v) (setCall (.running rest r) s)) := by
  rw [step_of_running hready hcall, continueCall, issueDigit, runAction, issueWord_of_decode (decode_encode _)]
  exact exec_writeDigit_of_ready _ hready

/-- In INERT it does nothing. -/
theorem step_issueDigit_inert {s : State} {v : Nat} {rest : List HostAction} {r : Reply} (hready : s.Ready)
    (hdrv : s.block.drv = .inert) (hcall : s.host.call = .running (issueDigit v :: rest) r) :
    step s = .next (setCall (.running rest r) s) := by
  rw [step_issueDigit hready hcall, writeDigitEffect_of_inert _ (s := setCall (.running rest r) s) hdrv]

/-- In ACTIVE between two frames: the state in which a WRITE_DIGIT runs its frame. -/
def CanShow (s : State) : Prop :=
  s.Ready ∧ s.block.drv = .active ∧ s.block.lv.clock = some false ∧ s.block.lv.latch = some false

/-- In ACTIVE it runs its frame, in 45 steps. -/
theorem run_issueDigit {s : State} {v : Nat} {rest : List HostAction} {r : Reply} (hs : CanShow s)
    (hcall : s.host.call = .running (issueDigit v :: rest) r) :
    run 45 s = .next (showDigit (BitVec.ofNat 4 v) (setCall (.running rest r) s)) := by
  obtain ⟨hready, hdrv, hclock, hlatch⟩ := hs
  have hstep := step_issueDigit hready hcall
  rw [writeDigitEffect_of_active _ (s := setCall (.running rest r) s) hdrv] at hstep
  rw [run_succ_of_step 44 hstep]
  exact run_frame (s := setCall (.running rest r) s) _ hready hclock hlatch

theorem canShow_showDigit {s : State} (d : Digit) (hs : CanShow s) : CanShow (showDigit d s) := by
  obtain ⟨hready, hdrv, -, -⟩ := hs
  exact ⟨hready, hdrv, rfl, rfl⟩

/-! ### Runs of a whole expansion -/

/-- `s` after an accept has emitted `events` and returned `r`. -/
def returned (events : List Event) (r : Reply) (s : State) : State :=
  { s with
    block := { s.block with trace := s.block.trace ++ events }
    host := { s.host with call := .idle, replies := s.host.replies ++ [r] } }

/-- An expansion that is one diagnostic takes two steps: the diagnostic and the return. -/
theorem run_diagnostic {s : State} {r : Reply} {c : Cause} {i : Info} (hready : s.Ready)
    (hcall : s.host.call = .running [.log c i] r) : run 2 s = .next (returned [.log c i] r s) := by
  have hreturn := step_return (s := logDiagnostic c i (setCall (.running [] r) s)) hready rfl
  rw [run_succ_of_step 1 (step_log hready hcall), run_succ_of_step 0 hreturn, run_zero]
  rfl

/-- `s` after an accept has emitted `events`, shown the digit `d` as the last one, and returned `r`. -/
def returnedShowing (events : List Event) (d : Digit) (r : Reply) (s : State) : State :=
  { s with
    block := { s.block with
      trace := s.block.trace ++ events
      lv := ⟨some (patternBit (memReadSeg d) 7), some false, some false⟩ }
    host := { s.host with call := .idle, replies := s.host.replies ++ [r] }
    obs := { sr := outputsOf (memReadSeg d), st := outputsOf (memReadSeg d) } }

/-- The trace of the values `vs` shown in ACTIVE: their frames, a one-second sleep between two of them. -/
def spacedFrames (vs : List Nat) : List Event :=
  List.intercalate [.sleep 1] (vs.map fun v => frameEvents (memReadSeg (BitVec.ofNat 4 v)))

theorem spacedFrames_singleton (v : Nat) : spacedFrames [v] = frameEvents (memReadSeg (BitVec.ofNat 4 v)) := by
  simp [spacedFrames, List.intercalate]

theorem spacedFrames_cons {vs : List Nat} (h : vs ≠ []) (v : Nat) :
    spacedFrames (v :: vs) = frameEvents (memReadSeg (BitVec.ofNat 4 v)) ++ .sleep 1 :: spacedFrames vs := by
  cases vs with
  | nil => exact absurd rfl h
  | cons w vs => simp [spacedFrames, List.intercalate]

theorem countDownTrace_eq (v : Nat) : countDownTrace v = spacedFrames (downFrom v) := by
  induction v with
  | zero => exact (spacedFrames_singleton 0).symm
  | succ v ih => rw [countDownTrace, ih, downFrom_succ, spacedFrames_cons (downFrom_ne_nil v)]

theorem countUpTrace_eq (n v : Nat) : countUpTrace n v = spacedFrames (upFrom n v) := by
  induction n generalizing v with
  | zero => exact (spacedFrames_singleton v).symm
  | succ n ih => rw [countUpTrace, ih, upFrom_succ, spacedFrames_cons (upFrom_ne_nil n _)]

/-- In ACTIVE an accept that issues the words of some values shows them one after the other, sleeps between two, and
returns. -/
theorem run_spacedDigits {vs : List Nat} {last : Nat} (hlast : vs.getLast? = some last) {s : State} {r : Reply}
    (hs : CanShow s) (hcall : s.host.call = .running (spacedDigits vs) r) :
    ∃ n, run n s = .next (returnedShowing (spacedFrames vs) (BitVec.ofNat 4 last) r s) := by
  induction vs generalizing s with
  | nil => cases hlast
  | cons v vs ih =>
    by_cases hvs : vs = []
    · subst hvs
      obtain rfl : v = last := Option.some.inj hlast
      have hreturn := step_return (s := showDigit (BitVec.ofNat 4 v) (setCall (.running [] r) s)) hs.1 rfl
      refine ⟨45 + 1, ?_⟩
      rw [run_add 1 (run_issueDigit hs hcall), run_succ_of_step 0 hreturn, run_zero, spacedFrames_singleton]
      rfl
    · rw [spacedDigits_cons hvs] at hcall
      have hshow := run_issueDigit hs hcall
      have hshown := canShow_showDigit (s := setCall (.running (.sleep :: spacedDigits vs) r) s) (BitVec.ofNat 4 v) hs
      have hsleep := step_sleep hshown.1 rfl
      have hlast' : vs.getLast? = some last := by
        rwa [List.getLast?_cons_of_ne_nil hvs] at hlast
      obtain ⟨n, hrest⟩ := ih hlast' (s := emit (.sleep 1) (setCall (.running (spacedDigits vs) r)
        (showDigit (BitVec.ofNat 4 v) (setCall (.running (.sleep :: spacedDigits vs) r) s)))) hshown rfl
      refine ⟨45 + (n + 1), ?_⟩
      rw [run_add (n + 1) hshow, run_succ_of_step n hsleep, hrest, spacedFrames_cons hvs]
      simp [returnedShowing, showDigit, setCall, emit]

/-- In INERT such an accept only sleeps between two values, and returns (45_host_command_path.md R135). -/
theorem run_spacedDigits_inert {vs : List Nat} (hne : vs ≠ []) {s : State} {r : Reply} (hready : s.Ready)
    (hdrv : s.block.drv = .inert) (hcall : s.host.call = .running (spacedDigits vs) r) :
    ∃ n, run n s = .next (returned (List.replicate (vs.length - 1) (.sleep 1)) r s) := by
  induction vs generalizing s with
  | nil => exact absurd rfl hne
  | cons v vs ih =>
    by_cases hvs : vs = []
    · subst hvs
      have hreturn := step_return (s := setCall (.running [] r) s) hready rfl
      refine ⟨2, ?_⟩
      rw [run_succ_of_step 1 (step_issueDigit_inert hready hdrv hcall), run_succ_of_step 0 hreturn, run_zero]
      simp [returned, reply, setCall]
    · rw [spacedDigits_cons hvs] at hcall
      have hsleep := step_sleep (s := setCall (.running (.sleep :: spacedDigits vs) r) s) hready rfl
      obtain ⟨n, hrest⟩ := ih hvs (s := emit (.sleep 1) (setCall (.running (spacedDigits vs) r)
        (setCall (.running (.sleep :: spacedDigits vs) r) s))) hready hdrv rfl
      have hlength : (v :: vs).length - 1 = (vs.length - 1) + 1 := by
        have := List.length_pos_iff.mpr hvs
        simp only [List.length_cons]
        omega
      refine ⟨n + 2, ?_⟩
      rw [run_succ_of_step (n + 1) (step_issueDigit_inert hready hdrv hcall), run_succ_of_step n hsleep, hrest, hlength,
        List.replicate_succ]
      simp [returned, setCall, emit, observe]

/-! ### The counts and the other commands -/

theorem downFrom_getLast? (v : Nat) : (downFrom v).getLast? = some 0 := by
  rw [downFrom, List.getLast?_reverse, List.range_succ_eq_map, List.head?_cons]

theorem upFrom_getLast? {v : Nat} (h : v ≤ 15) : (upFrom (15 - v) v).getLast? = some 15 := by
  rw [upFrom, List.getLast?_map, List.range_succ, List.getLast?_concat, Option.map_some, Nat.add_sub_cancel' h]

theorem le_of_mem_downFrom {v w : Nat} (h : w ∈ downFrom v) : w ≤ v := by
  simpa [downFrom, Nat.lt_succ_iff] using h

theorem le_of_mem_upFrom {n v w : Nat} (h : w ∈ upFrom n v) : w ≤ v + n := by
  obtain ⟨j, hj, rfl⟩ := List.mem_map.mp h
  have := List.mem_range.mp hj
  omega

theorem expand_countDown_words {v : Nat} (h : v ≤ 15) : expand (.countDown v) =
    ((List.range (v + 1)).reverse.map fun i => HostAction.issue (0x40#8 ||| BitVec.ofNat 8 i)).intersperse .sleep := by
  rw [expand_countDown_of_le h, countDownActions_eq,
    spacedDigits_of_le fun w hw => Nat.le_trans (le_of_mem_downFrom hw) h, downFrom]

theorem expand_countUp_words {v : Nat} (h : v ≤ 15) : expand (.countUp v) =
    ((List.range (16 - v)).map fun j => HostAction.issue (0x40#8 ||| BitVec.ofNat 8 (v + j))).intersperse .sleep := by
  have hle : ∀ w ∈ upFrom (15 - v) v, w ≤ 15 := fun w hw => by
    have := le_of_mem_upFrom hw
    omega
  rw [expand_countUp_of_le h, countUpActions_eq, spacedDigits_of_le hle, upFrom, List.map_map,
    show 15 - v + 1 = 16 - v by omega]
  rfl

/-- Settles O43: the words are those of the values from `v` down, the last of which is 0. -/
theorem countDownRunsToItsEnd : Obligations.CountDownRunsToItsEnd := by
  refine ⟨fun v u => resolve_of_value rfl rfl, fun v => ?words, fun s v r hready hcall hdrv hclock hlatch => ?run⟩
  case words =>
    split_ifs with hv
    · exact expand_countDown_words hv
    · exact (expand_of_gt (Nat.lt_of_not_le hv)).2.1
  case run =>
    refine ⟨fun hv => ?_, fun hv => ?_⟩
    · rw [expand_countDown_of_le hv, countDownActions_eq] at hcall
      rw [countDownTrace_eq]
      exact run_spacedDigits (downFrom_getLast? v) ⟨hready, hdrv, hclock, hlatch⟩ hcall
    · rw [(expand_of_gt hv).2.1] at hcall
      exact run_diagnostic hready hcall

/-- Settles O44: the words are those of the values from `v` up, the last of which is 15. -/
theorem countUpRunsToItsEnd : Obligations.CountUpRunsToItsEnd := by
  refine ⟨fun v => resolve_of_value rfl rfl, fun v => ?words, fun s v r hready hcall hdrv hclock hlatch => ?run⟩
  case words =>
    split_ifs with hv
    · exact expand_countUp_words hv
    · exact (expand_of_gt (Nat.lt_of_not_le hv)).2.2
  case run =>
    refine ⟨fun hv => ?_, fun hv => ?_⟩
    · rw [expand_countUp_of_le hv, countUpActions_eq] at hcall
      rw [countUpTrace_eq]
      exact run_spacedDigits (upFrom_getLast? hv) ⟨hready, hdrv, hclock, hlatch⟩ hcall
    · rw [(expand_of_gt hv).2.2] at hcall
      exact run_diagnostic hready hcall

/-- Settles O45: `n + 1` values have `n` sleeps between them. -/
theorem inertCountsOnlySleep : Obligations.InertCountsOnlySleep := by
  intro s v r hready hdrv hv
  refine ⟨fun hcall => ?_, fun hcall => ?_⟩
  · rw [expand_countDown_of_le hv, countDownActions_eq] at hcall
    have hrun := run_spacedDigits_inert (downFrom_ne_nil v) hready hdrv hcall
    rw [downFrom_length, Nat.add_sub_cancel] at hrun
    exact hrun
  · rw [expand_countUp_of_le hv, countUpActions_eq] at hcall
    have hrun := run_spacedDigits_inert (upFrom_ne_nil _ v) hready hdrv hcall
    rw [upFrom_length, Nat.add_sub_cancel] at hrun
    exact hrun

/-- Settles O46: the expansion of NoOption is its one diagnostic. -/
theorem noOptionLogsOnce : Obligations.NoOptionLogsOnce :=
  ⟨rfl, fun _ _ hready hcall => run_diagnostic hready hcall⟩

/-- The empty input has one empty token, which sets nothing: an accept of no byte goes on as NoOption. -/
theorem afterAccept_nil (offset : Nat) (s : State) :
    afterAccept offset 0 [] s = { s with
      host := { s.host with
        buf := Memory.cleared
        cursor := offset
        outcome := .fresh
        call := .running (expand .noOption) (.accepted 0) } } := by
  have hlogs : scanLogs (copiedScan 0 [] s) = [] := rfl
  rw [afterAccept, hlogs, List.append_nil]
  rfl

/-- Settles O60: the accept, and then the two steps of NoOption. -/
theorem zeroByteAcceptLogsNoOption : Obligations.ZeroByteAcceptLogsNoOption := by
  refine ⟨fun _ => rfl, fun s offset fails rest hturn hreq hoffset => ?_⟩
  have hstep := step_accept_succeeds (n := 0) hturn hreq (fun _ => rfl) hoffset (by simp)
  have hready : (afterAccept offset 0 [] (setRequests rest s)).Ready := hturn.1
  rw [run_succ_of_step 2 hstep]
  rw [afterAccept_nil] at hready ⊢
  have hrun := run_diagnostic hready rfl
  rw [returned, ← hturn.2] at hrun
  exact hrun

/-- Settles O47: the accept leaves the expansion of Display(v) to run, which is one word or one diagnostic. -/
theorem acceptedDisplayRunsToItsEnd : Obligations.AcceptedDisplayRunsToItsEnd := by
  intro s offset payload rest n v hturn hreq hoffset hn hparse hdrv hclock hlatch
  have hready : (afterAccept offset n payload (setRequests rest s)).Ready := hturn.1
  have hstep := step_accept_succeeds hturn hreq (by simp) hoffset hn
  have hcall : (afterAccept offset n payload (setRequests rest s)).host.call =
      .running (expand (.display v)) (.accepted n) := congrArg (fun c => HostCall.running (expand c) _) hparse
  obtain hv | hv := Nat.lt_or_ge 15 v
  · rw [(expand_of_gt hv).1] at hcall
    have hrun := run_diagnostic hready hcall
    exact ⟨3, _, (run_succ_of_step 2 hstep).trans hrun, ⟨hready, rfl⟩, rfl, hdrv, rfl,
      fun hle => absurd hv (Nat.not_lt.mpr hle), fun _ => ⟨rfl, rfl, rfl⟩⟩
  · rw [expand_display_of_le hv] at hcall
    have hshow : CanShow (afterAccept offset n payload (setRequests rest s)) := ⟨hready, hdrv, hclock, hlatch⟩
    obtain ⟨k, hrun⟩ := run_spacedDigits (vs := [v]) rfl hshow hcall
    rw [spacedFrames_singleton] at hrun
    exact ⟨k + 1, _, (run_succ_of_step k hstep).trans hrun, ⟨hready, rfl⟩, rfl, hdrv, rfl, fun _ => ⟨rfl, rfl⟩,
      fun hlt => absurd hlt (Nat.not_lt.mpr hv)⟩

end Sys2Proof.Proofs
end
